-- ==== Sys2Proof/Word.lean ====
section
/-! DEFINITION. The word types of the CORE: bytes, 32-bit host and command words, 256-bit registers, the
4-bit index fields of a command word. -/

namespace Sys2Proof

/-- A byte, 0 to 255 (00_scope.md R16). -/
abbrev Byte := BitVec 8

/-- A 32-bit word: a command word (R90), a host access (R64), a word of a hash core (R62). -/
abbrev Word32 := BitVec 32

/-- The contents of a general register or of a coordinate of a point register (R21, R24). -/
abbrev Word256 := BitVec 256

/-- An index field of a command word, as it stands: 0 to 15, not yet range-checked (R90, R93). -/
abbrev Index := BitVec 4

/-- A byte string: its bytes, first byte first (R16). -/
abbrev Bytes := List Byte

end Sys2Proof
end

