-- ==== Sys2Proof/Config.lean ====
section
/-! DEFINITION. What an implementation fixes: the parameters of 00_scope.md R7 and the hard-wired constants of
R8 to R13 (10_state.md R36: constants, not state). The two open parameters, NCORES and BASE[c], are arguments
of `Machine/Platform.lean`. -/

namespace Sys2Proof.Config

/-- NREG, the number of general registers (R7, R21). -/
abbrev nReg : Nat := 8

/-- NPT, the number of point registers (R7, R24). -/
abbrev nPt : Nat := 4

/-- NBUF, the number of byte buffers (R7, R28). -/
abbrev nBuf : Nat := 4

/-- BUFCAP, the capacity of each byte buffer in bytes (R7, R28). -/
abbrev bufCap : Nat := 128

/-- The size in bytes of the host register space of one instance (20_memory.md R60). -/
abbrev windowSize : Nat := 0x800

/-- ID, the identification word (R2, R33). -/
def idWord : Word32 := 0x4B310001

/-- VER_ADDR, the version byte of a mainnet address (R7, R13). -/
def verAddr : Byte := 0x00

/-- VER_WIF, the version byte of a WIF export (R7, R13). -/
def verWif : Byte := 0x80

/-- The WIF compression marker (R13). -/
def wifMarker : Byte := 0x01

/-- The field prime (R8). -/
def p : Nat := 0xFFFFFFFFFFFFFFFFFFFFFFFFFFFFFFFFFFFFFFFFFFFFFFFFFFFFFFFEFFFFFC2F

/-- The curve order (R9). -/
def n : Nat := 0xFFFFFFFFFFFFFFFFFFFFFFFFFFFFFFFEBAAEDCE6AF48A03BBFD25E8CD0364141

/-- The x coordinate of the base point (R10). -/
def gx : Nat := 0x79BE667EF9DCBBAC55A06295CE870B07029BFCDB2DCE28D959F2815B16F81798

/-- The y coordinate of the base point (R10). -/
def gy : Nat := 0x483ADA7726A3C4655DA4FBFC0E1108A8FD17B448A68554199C47D08FFB10D4B8

/-- The coefficient b of the curve equation; the coefficient a is 0 (R11). -/
def curveB : Nat := 7

end Sys2Proof.Config
end

