-- ==== Sys2Proof/Syntax.lean ====
section
/-! DEFINITION. The command set CS1: one constructor for each row of the opcode table (30_encoding.md R94),
operands in the order destination, first source, second source, immediate (R100). An operand is the index
field as the command word holds it; its range is checked by `WellFormed`. -/

namespace Sys2Proof

/-- A command. The docstring of each constructor names its mnemonic, its format (R91) and its rule. -/
inductive Instr where
  /-- FADD rd, rs1, rs2 (format RRR, R121). -/
  | fadd (rd rs1 rs2 : Index)
  /-- FSUB rd, rs1, rs2 (format RRR, R122). -/
  | fsub (rd rs1 rs2 : Index)
  /-- FMUL rd, rs1, rs2 (format RRR, R123). -/
  | fmul (rd rs1 rs2 : Index)
  /-- FNEG rd, rs1 (format RR, R124). -/
  | fneg (rd rs1 : Index)
  /-- FINV rd, rs1 (format RR, R125). -/
  | finv (rd rs1 : Index)
  /-- PDBL pd, ps1 (format PP, R145). -/
  | pdbl (pd ps1 : Index)
  /-- PADD pd, ps1, ps2 (format PPP, R146). -/
  | padd (pd ps1 ps2 : Index)
  /-- PCHK ps1 (format xP, R150). -/
  | pchk (ps1 : Index)
  /-- PMUL pd, rs, ps (format PRP, R160). -/
  | pmul (pd rs ps : Index)
  /-- PMULG pd, rs (format PR, R165). -/
  | pmulg (pd rs : Index)
  /-- SCHK rs (format xR, R166). -/
  | schk (rs : Index)
  /-- SERC bd, ps1 (format BP, R181). -/
  | serc (bd ps1 : Index)
  /-- SERU bd, ps1 (format BP, R182). -/
  | seru (bd ps1 : Index)
  /-- SHA256 bd, bs1 (format BB, R196). -/
  | sha256 (bd bs1 : Index)
  /-- RMD160 bd, bs1 (format BB, R206). -/
  | rmd160 (bd bs1 : Index)
  /-- HASH160 bd, bs1 (format BB, R210). -/
  | hash160 (bd bs1 : Index)
  /-- B58ENC bd, bs1, ver (format BBI, R240). -/
  | b58enc (bd bs1 : Index) (ver : Byte)
  /-- B58DEC bd, bs1 (format BB, R250). -/
  | b58dec (bd bs1 : Index)
  /-- R2B bd, rs (format BR, R260). -/
  | r2b (bd rs : Index)
  /-- B2R rd, bs1 (format RB, R261). -/
  | b2r (rd bs1 : Index)
  /-- BAPP bd, imm (format BI, R262). -/
  | bapp (bd : Index) (imm : Byte)
deriving DecidableEq, Repr

end Sys2Proof
end

