-- ==== Sys2Proof/WellFormed.lean ====
section
/-! DEFINITION. The range checks of 30_encoding.md R93: a register index is less than NREG, a point register
index less than NPT, a buffer index less than NBUF. -/

namespace Sys2Proof

/-- A register index in range (R93). -/
def regOk (i : Index) : Bool := decide (i.toNat < Config.nReg)

/-- A point register index in range (R93). -/
def ptOk (i : Index) : Bool := decide (i.toNat < Config.nPt)

/-- A buffer index in range (R93). -/
def bufOk (i : Index) : Bool := decide (i.toNat < Config.nBuf)

/-- Every index operand of the command is in range for the kind of object its format names (R91, R93). -/
def Instr.wellFormed : Instr → Bool
  | .fadd rd rs1 rs2 => regOk rd && regOk rs1 && regOk rs2
  | .fsub rd rs1 rs2 => regOk rd && regOk rs1 && regOk rs2
  | .fmul rd rs1 rs2 => regOk rd && regOk rs1 && regOk rs2
  | .fneg rd rs1 => regOk rd && regOk rs1
  | .finv rd rs1 => regOk rd && regOk rs1
  | .pdbl pd ps1 => ptOk pd && ptOk ps1
  | .padd pd ps1 ps2 => ptOk pd && ptOk ps1 && ptOk ps2
  | .pchk ps1 => ptOk ps1
  | .pmul pd rs ps => ptOk pd && regOk rs && ptOk ps
  | .pmulg pd rs => ptOk pd && regOk rs
  | .schk rs => regOk rs
  | .serc bd ps1 => bufOk bd && ptOk ps1
  | .seru bd ps1 => bufOk bd && ptOk ps1
  | .sha256 bd bs1 => bufOk bd && bufOk bs1
  | .rmd160 bd bs1 => bufOk bd && bufOk bs1
  | .hash160 bd bs1 => bufOk bd && bufOk bs1
  | .b58enc bd bs1 _ => bufOk bd && bufOk bs1
  | .b58dec bd bs1 => bufOk bd && bufOk bs1
  | .r2b bd rs => bufOk bd && regOk rs
  | .b2r rd bs1 => regOk rd && bufOk bs1
  | .bapp bd _ => bufOk bd

end Sys2Proof
end

