-- ==== Sys2Proof/Decode.lean ====
section
/-! DEFINITION. Decoding of command words (30_encoding.md R90 to R96), a total function that rejects by name;
the opcode table as masks and matches (R94); and the encoder, written from the same table (R91, R100). -/

namespace Sys2Proof

/-- The fields of a command word (R90). -/
structure Fields where
  /-- bits 31:24 -/
  op : BitVec 8
  /-- bits 23:20 -/
  a : Index
  /-- bits 19:16 -/
  b : Index
  /-- bits 15:12 -/
  c : Index
  /-- bits 11:8 -/
  z : BitVec 4
  /-- bits 7:0 -/
  imm : Byte
deriving DecidableEq, Repr

/-- The fields of a word, each at the place R90 gives it. -/
def Fields.ofWord (w : Word32) : Fields where
  op := w.extractLsb' 24 8
  a := w.extractLsb' 20 4
  b := w.extractLsb' 16 4
  c := w.extractLsb' 12 4
  z := w.extractLsb' 8 4
  imm := w.extractLsb' 0 8

/-- The word that holds the given fields (R90). -/
def Fields.toWord (f : Fields) : Word32 :=
  f.op ++ f.a ++ f.b ++ f.c ++ f.z ++ f.imm

/-- Why a word is no command (R95, R96); every one of them completes with IllegalCommand (R306). -/
inductive Illegal where
  /-- R96 (a): the opcode is none of the 21. -/
  | unassignedOpcode (op : BitVec 8)
  /-- R96 (b): the field z is not zero. -/
  | nonzeroZ (z : BitVec 4)
  /-- R96 (c): a field the format does not use is not zero. -/
  | unusedFieldSet
  /-- R96 (d): an index field is out of range. -/
  | indexOutOfRange
deriving DecidableEq, Repr

/-- The row of the opcode table whose opcode is `f.op` (R94): the command its used fields make, and whether the
fields its format leaves unused (R91), z apart, are all zero. -/
def rowOf (f : Fields) : Option (Instr × Bool) :=
  match f.op with
  | 0x01#8 => some (.fadd f.a f.b f.c, f.imm = 0)
  | 0x02#8 => some (.fsub f.a f.b f.c, f.imm = 0)
  | 0x03#8 => some (.fmul f.a f.b f.c, f.imm = 0)
  | 0x04#8 => some (.fneg f.a f.b, f.c = 0 && f.imm = 0)
  | 0x05#8 => some (.finv f.a f.b, f.c = 0 && f.imm = 0)
  | 0x10#8 => some (.pdbl f.a f.b, f.c = 0 && f.imm = 0)
  | 0x11#8 => some (.padd f.a f.b f.c, f.imm = 0)
  | 0x12#8 => some (.pchk f.b, f.a = 0 && f.c = 0 && f.imm = 0)
  | 0x18#8 => some (.pmul f.a f.b f.c, f.imm = 0)
  | 0x19#8 => some (.pmulg f.a f.b, f.c = 0 && f.imm = 0)
  | 0x1A#8 => some (.schk f.b, f.a = 0 && f.c = 0 && f.imm = 0)
  | 0x20#8 => some (.serc f.a f.b, f.c = 0 && f.imm = 0)
  | 0x21#8 => some (.seru f.a f.b, f.c = 0 && f.imm = 0)
  | 0x28#8 => some (.sha256 f.a f.b, f.c = 0 && f.imm = 0)
  | 0x29#8 => some (.rmd160 f.a f.b, f.c = 0 && f.imm = 0)
  | 0x2A#8 => some (.hash160 f.a f.b, f.c = 0 && f.imm = 0)
  | 0x30#8 => some (.b58enc f.a f.b f.imm, f.c = 0)
  | 0x31#8 => some (.b58dec f.a f.b, f.c = 0 && f.imm = 0)
  | 0x38#8 => some (.r2b f.a f.b, f.c = 0 && f.imm = 0)
  | 0x39#8 => some (.b2r f.a f.b, f.c = 0 && f.imm = 0)
  | 0x3A#8 => some (.bapp f.a f.imm, f.b = 0 && f.c = 0)
  | _ => none

/-- Decoding, a total function from 32-bit words to commands or the reason the word is illegal (R95). -/
def decode (w : Word32) : Except Illegal Instr :=
  let f := Fields.ofWord w
  match rowOf f with
  | none => .error (.unassignedOpcode f.op)
  | some (i, unusedZero) =>
    if f.z ≠ 0 then .error (.nonzeroZ f.z)
    else if !unusedZero then .error .unusedFieldSet
    else if !i.wellFormed then .error .indexOutOfRange
    else .ok i

/-- One row of the opcode table of R94: a word `w` is the row's command exactly when `w & mask == match`. -/
structure OpcodeRow where
  /-- The value the masked word has. -/
  pattern : Word32
  /-- The bits that are fixed. -/
  mask : Word32
deriving DecidableEq, Repr

/-- The columns "match" and "mask" of R94, in the table's order. -/
def opcodeTable : List OpcodeRow :=
  [⟨0x01000000, 0xFF888FFF⟩, ⟨0x02000000, 0xFF888FFF⟩, ⟨0x03000000, 0xFF888FFF⟩, ⟨0x04000000, 0xFF88FFFF⟩,
   ⟨0x05000000, 0xFF88FFFF⟩, ⟨0x10000000, 0xFFCCFFFF⟩, ⟨0x11000000, 0xFFCCCFFF⟩, ⟨0x12000000, 0xFFFCFFFF⟩,
   ⟨0x18000000, 0xFFC8CFFF⟩, ⟨0x19000000, 0xFFC8FFFF⟩, ⟨0x1A000000, 0xFFF8FFFF⟩, ⟨0x20000000, 0xFFCCFFFF⟩,
   ⟨0x21000000, 0xFFCCFFFF⟩, ⟨0x28000000, 0xFFCCFFFF⟩, ⟨0x29000000, 0xFFCCFFFF⟩, ⟨0x2A000000, 0xFFCCFFFF⟩,
   ⟨0x30000000, 0xFFCCFF00⟩, ⟨0x31000000, 0xFFCCFFFF⟩, ⟨0x38000000, 0xFFC8FFFF⟩, ⟨0x39000000, 0xFF8CFFFF⟩,
   ⟨0x3A000000, 0xFFCFFF00⟩]

/-- The word matches the row (R94). -/
def OpcodeRow.matchesWord (row : OpcodeRow) (w : Word32) : Bool := w &&& row.mask == row.pattern

/-- The word matches some row of the opcode table (R95, its second form). -/
def tableLegal (w : Word32) : Bool := opcodeTable.any (·.matchesWord w)

/-- The instruction the decoder reads from a table row's bits, bit 0 the least significant; bits from `nbits` up
are zero. A command word is a number and has no byte order of its own (R90). -/
def decodeTableWord (nbits w : Nat) : Option Instr :=
  (decode (BitVec.ofNat 32 (w % 2 ^ nbits))).toOption

/-- The fields of a command's word: its opcode (R94), its operands where its format puts them (R91), zero
elsewhere (R96). -/
def Instr.fields : Instr → Fields
  | .fadd rd rs1 rs2 => ⟨0x01, rd, rs1, rs2, 0, 0⟩
  | .fsub rd rs1 rs2 => ⟨0x02, rd, rs1, rs2, 0, 0⟩
  | .fmul rd rs1 rs2 => ⟨0x03, rd, rs1, rs2, 0, 0⟩
  | .fneg rd rs1 => ⟨0x04, rd, rs1, 0, 0, 0⟩
  | .finv rd rs1 => ⟨0x05, rd, rs1, 0, 0, 0⟩
  | .pdbl pd ps1 => ⟨0x10, pd, ps1, 0, 0, 0⟩
  | .padd pd ps1 ps2 => ⟨0x11, pd, ps1, ps2, 0, 0⟩
  | .pchk ps1 => ⟨0x12, 0, ps1, 0, 0, 0⟩
  | .pmul pd rs ps => ⟨0x18, pd, rs, ps, 0, 0⟩
  | .pmulg pd rs => ⟨0x19, pd, rs, 0, 0, 0⟩
  | .schk rs => ⟨0x1A, 0, rs, 0, 0, 0⟩
  | .serc bd ps1 => ⟨0x20, bd, ps1, 0, 0, 0⟩
  | .seru bd ps1 => ⟨0x21, bd, ps1, 0, 0, 0⟩
  | .sha256 bd bs1 => ⟨0x28, bd, bs1, 0, 0, 0⟩
  | .rmd160 bd bs1 => ⟨0x29, bd, bs1, 0, 0, 0⟩
  | .hash160 bd bs1 => ⟨0x2A, bd, bs1, 0, 0, 0⟩
  | .b58enc bd bs1 ver => ⟨0x30, bd, bs1, 0, 0, ver⟩
  | .b58dec bd bs1 => ⟨0x31, bd, bs1, 0, 0, 0⟩
  | .r2b bd rs => ⟨0x38, bd, rs, 0, 0, 0⟩
  | .b2r rd bs1 => ⟨0x39, rd, bs1, 0, 0, 0⟩
  | .bapp bd imm => ⟨0x3A, bd, 0, 0, 0, imm⟩

/-- The word of a command (R100: `op*2^24 + a*2^20 + b*2^16 + c*2^12 + imm`). -/
def encode (i : Instr) : Word32 := i.fields.toWord

end Sys2Proof
end

