-- ==== Sys2Proof/Machine/ByteStrings.lean ====
section
/-! DEFINITION. Integers as byte strings and back, and bit slices (00_scope.md R15, R16): the conversions every
command rule uses. -/

namespace Sys2Proof.Machine

/-- `bitlen(k)`: 0 for 0, otherwise the least L with `k < 2^L` (R15). -/
def bitlen (k : Nat) : Nat := if k = 0 then 0 else k.log2 + 1

/-- `zeros(k)`: k bytes of 0 (R16). -/
def zeros (k : Nat) : Bytes := List.replicate k 0

/-- `be(v, k)`: byte i is `(v div 256^(k-1-i)) mod 256` (R16). -/
def be (v k : Nat) : Bytes := (List.range k).map fun i => BitVec.ofNat 8 (v / 256 ^ (k - 1 - i))

/-- `le(v, k)`: byte i is `(v div 256^i) mod 256` (R16). -/
def le (v k : Nat) : Bytes := (List.range k).map fun i => BitVec.ofNat 8 (v / 256 ^ i)

/-- `fromBE(s)`: the sum over i of `s[i] * 256^(|s|-1-i)`, 0 for the empty string (R16). -/
def fromBE (s : Bytes) : Nat := s.foldl (fun acc b => 256 * acc + b.toNat) 0

/-- `minBE(v)`: the shortest big-endian form, `be(v, ceil(bitlen(v)/8))` (R16). -/
def minBE (v : Nat) : Bytes := be v ((bitlen v + 7) / 8)

/-- `be32w(s)`: the word of the first four bytes, most significant byte first (R16). -/
def be32w (s : Bytes) : Word32 := s.getD 0 0 ++ s.getD 1 0 ++ s.getD 2 0 ++ s.getD 3 0

/-- `le32(s)`: the word of the first four bytes, least significant byte first (R16). -/
def le32 (s : Bytes) : Word32 := s.getD 3 0 ++ s.getD 2 0 ++ s.getD 1 0 ++ s.getD 0 0

/-- The first `k` consecutive pieces of `n` bytes of a byte string (the blocks of R191, the words of R193). -/
def pieces (n : Nat) (s : Bytes) : Nat → List Bytes
  | 0 => []
  | k + 1 => s.take n :: pieces n (s.drop n) k

/-- Host word j of a 256-bit quantity: its bits `32j+31 : 32j` (20_memory.md R63). -/
def wordOf (v : Word256) (j : Nat) : Word32 := v.extractLsb' (32 * j) 32

/-- The 256-bit quantity with bits `32j+31 : 32j` replaced by `w` and the others kept (R72). -/
def withWord (v : Word256) (j : Nat) (w : Word32) : Word256 :=
  (v &&& ~~~(BitVec.setWidth 256 (BitVec.allOnes 32) <<< (32 * j))) ||| (BitVec.setWidth 256 w <<< (32 * j))

end Sys2Proof.Machine
end

