-- ==== Sys2Proof/Machine/State.lean ====
section
/-! DEFINITION. The state of one CORE instance as plain data (10_state.md R20), its value after reset (R42), the
events of the outside world, the error names of 60_exceptions.md R300, and the reasons a step can stop. -/

namespace Sys2Proof.Machine

/-- The data bytes of one buffer space: (address, byte) pairs in canonical form, addresses strictly rising and
below BUFCAP, no byte that an unlisted address already reads as (20_memory.md R60; R42 gives 0). -/
abbrev Memory := List Host.Cell

/-- What an address that is not listed reads as: the reset contents (R42: "every data byte 0"). -/
abbrev unlistedByte : Byte := 0

/-- The canonical form of a buffer space holds. -/
abbrev Memory.wf (m : Memory) : Prop :=
  m.Pairwise (fun c d => c.1 < d.1) ∧ ∀ c ∈ m, c.1 < Config.bufCap ∧ c.2 ≠ unlistedByte

/-- A point value (00_scope.md R17): Infinity, or a pair of field elements. -/
inductive Point where
  /-- The point at infinity. -/
  | infinity
  /-- The affine point with these coordinates. -/
  | affine (x y : Nat)
deriving DecidableEq, Repr

/-- A point register `P[i]`: three independent raw fields (R24, R25). -/
structure PointReg where
  /-- 1 for the Infinity variant. -/
  inf : Bool
  /-- The raw x coordinate. -/
  x : Word256
  /-- The raw y coordinate. -/
  y : Word256
deriving DecidableEq, Repr

/-- Canonical Infinity: what reset and an Infinity result leave (R27, R42). -/
def PointReg.canonicalInfinity : PointReg := ⟨true, 0, 0⟩

/-- A byte buffer `buf[k]`: its length and its data bytes (R28). -/
structure Buffer where
  /-- `len`, a natural number; at most BUFCAP in every reachable state (R43). -/
  len : Nat
  /-- `data[0..127]`. -/
  data : Memory
deriving DecidableEq, Repr

/-- An event of the outside world of one instance (00_scope.md R14; 70_reset_and_hazards.md R340, R345). Which
event comes next is not the instance's choice; log 1. -/
inductive Event where
  /-- `HostWrite(offset, value)`: an aligned 32-bit write at a byte offset from the instance's base. -/
  | write (offset : Nat) (value : Word32)
  /-- `HostRead(offset)`: an aligned 32-bit read. -/
  | read (offset : Nat)
  /-- A host access of another width than 32 bits, which a platform must not present (R64). -/
  | otherWidth (offset bits : Nat)
  /-- The engine has its turn: `Complete`, if a command is in progress (R345). -/
  | engine
  /-- The reset input (R340). -/
  | reset
deriving DecidableEq, Repr

/-- The complete state of one instance (R20), and the model's own two fields `inputs` and `responses`. -/
structure State where
  /-- `r[0..7]` (R21). -/
  regs : Vector Word256 Config.nReg
  /-- `P[0..3]` (R24). -/
  points : Vector PointReg Config.nPt
  /-- `buf[0..3]` (R28). -/
  bufs : Vector Buffer Config.nBuf
  /-- STATUS.BUSY (R35). -/
  busy : Bool
  /-- STATUS.ERR (R35). -/
  err : Bool
  /-- STATUS.HAZ (R35). -/
  haz : Bool
  /-- STATUS.ONC (R35). -/
  onc : Bool
  /-- ERRCODE bits 7:0 (R37). -/
  errcode : Byte
  /-- VER bits 7:0 (R38). -/
  ver : Byte
  /-- `cmdlatch`: the word of the command being executed (R39). -/
  cmdlatch : Word32
  /-- The model's own: the events still to come, oldest first (DESIGN CHOICE, log 1). -/
  inputs : List Event
  /-- The model's own: the words host reads have returned, newest first (DESIGN CHOICE, log 2). -/
  responses : List Word32
deriving DecidableEq, Repr

/-- The state right after reset (R42). The two fields of the model's own are empty (log 1, log 2). -/
def State.reset : State where
  regs := Vector.replicate Config.nReg 0
  points := Vector.replicate Config.nPt PointReg.canonicalInfinity
  bufs := Vector.replicate Config.nBuf ⟨0, []⟩
  busy := false
  err := false
  haz := false
  onc := false
  errcode := 0
  ver := 0
  cmdlatch := 0
  inputs := []
  responses := []

/-- The errors a command can end with (60_exceptions.md R300). -/
inductive CmdError where
  /-- 1: the scalar is outside `[1, n)` (R301); PMULG, SCHK. -/
  | invalidScalar
  /-- 2: encoding of the identity point (R302); SERC, SERU. -/
  | pointAtInfinity
  /-- 3: no modular inverse (R303); FINV. -/
  | noInverse
  /-- 4: the checksum does not match, or there is none (R304); B58DEC. -/
  | invalidChecksum
  /-- 5: a character outside the alphabet (R305); B58DEC. -/
  | invalidCharacter
  /-- 6: the word is no command (R306). -/
  | illegalCommand
  /-- 7: a byte string does not fit (R307); B58ENC, B2R, BAPP. -/
  | length
deriving DecidableEq, Repr

/-- The one way the model stops with a fault. An error of a command is no fault: it is a next state (R310). -/
inductive Fault where
  /-- Raised by a host access whose offset lies outside the 0x800-byte window (93_implementation_defined.md I11:
  no step); only an event of `inputs` can raise it. Safe: the model stops where a platform must not go (log 6). -/
  | outsideWindow (offset : Nat)
deriving DecidableEq, Repr

/-- The ways the model refuses to give a step. -/
inductive Refusal where
  /-- Raised by an arm of `exec` that has no meaning yet; no arm of this model does. Safe. -/
  | notModelled (mnemonic : String)
  /-- Raised by a host access at an offset that is no multiple of 4 (20_memory.md R64: "it refuses"). Safe
  (log 6). -/
  | misalignedAccess (offset : Nat)
  /-- Raised by a host access that is not 32 bits wide (R64: "it refuses"). Safe (log 6). -/
  | wrongWidth (offset bits : Nat)
deriving DecidableEq, Repr

/-- What a step, an event or a meaning answers. -/
abbrev Result := Host.Outcome State Fault Refusal

end Sys2Proof.Machine
end

