-- ==== Sys2Proof/Machine/Ops.lean ====
section
/-! DEFINITION. The named operations over buffer spaces and registers, the two ways a command completes (with its
result, or by raising an error: the CORE's "taking an exception", 60_exceptions.md R310), and the issue of a
command, which is also what clears an error (R311: the CORE's "return"). -/

namespace Sys2Proof.Machine

/-! ### Buffer spaces -/

/-- The byte at address `a`. -/
def Memory.read : Memory → Nat → Byte
  | [], _ => unlistedByte
  | (b, v) :: m, a => if a = b then v else Memory.read m a

/-- Store one byte, keeping the canonical form: storing what an unlisted address reads as removes the entry. -/
def Memory.write : Memory → Nat → Byte → Memory
  | [], a, v => if v = unlistedByte then [] else [(a, v)]
  | (b, w) :: m, a, v =>
    if a < b then (if v = unlistedByte then (b, w) :: m else (a, v) :: (b, w) :: m)
    else if a = b then (if v = unlistedByte then m else (a, v) :: m)
    else (b, w) :: Memory.write m a v

/-- The space that holds the byte string `s` from address `a` on and 0 at every other address. -/
def Memory.ofBytes : Nat → Bytes → Memory
  | _, [] => []
  | a, v :: s => if v = unlistedByte then Memory.ofBytes (a + 1) s else (a, v) :: Memory.ofBytes (a + 1) s

/-- `MemRead`: the n bytes from address `a` on (00_scope.md R18). -/
def Memory.readBytes (m : Memory) (a n : Nat) : Bytes := (List.range n).map fun i => m.read (a + i)

/-- `MemWrite`: store the bytes of `s` from address `a` on (R18). -/
def Memory.writeBytes (m : Memory) (a : Nat) : Bytes → Memory
  | [] => m
  | v :: s => Memory.writeBytes (m.write a v) (a + 1) s

/-! ### Registers, point registers, buffers -/

/-- `r[i]`, raw (R18). An index that is out of range reads 0; no decoded command has one (log 4). -/
def State.reg (s : State) (i : Nat) : Word256 := s.regs[i]?.getD 0

/-- `r[i] <- v` (R18). -/
def State.setReg (s : State) (i : Nat) (v : Word256) : State := { s with regs := s.regs.setIfInBounds i v }

/-- The point register `P[i]`, raw (R24); out of range, canonical Infinity (log 4). -/
def State.point (s : State) (i : Nat) : PointReg := s.points[i]?.getD PointReg.canonicalInfinity

/-- Replace the three raw fields of `P[i]`. -/
def State.setPoint (s : State) (i : Nat) (v : PointReg) : State :=
  { s with points := s.points.setIfInBounds i v }

/-- The buffer `buf[k]` (R28); out of range, the empty buffer (log 4). -/
def State.buf (s : State) (k : Nat) : Buffer := s.bufs[k]?.getD ⟨0, []⟩

/-- Replace `buf[k]`. -/
def State.setBuf (s : State) (k : Nat) (b : Buffer) : State := { s with bufs := s.bufs.setIfInBounds k b }

/-- The data byte `buf[k].data[a]`: the model's read of one byte of memory. -/
def State.readByte (s : State) (k a : Nat) : Byte := (s.buf k).data.read a

/-- The raw fields that hold a point value (R27): Infinity as `(1, 0, 0)`. -/
def PointReg.ofPoint : Point → PointReg
  | .infinity => PointReg.canonicalInfinity
  | .affine x y => ⟨false, BitVec.ofNat 256 x, BitVec.ofNat 256 y⟩

/-- `P[i] <- v`, the write of a point value by a command (R27). -/
def State.writePoint (s : State) (i : Nat) (v : Point) : State := s.setPoint i (PointReg.ofPoint v)

/-- `r[i] <- v` for a natural number v less than 2^256 (R18). -/
def State.writeReg (s : State) (i : Nat) (v : Nat) : State := s.setReg i (BitVec.ofNat 256 v)

/-- `buf[k] <- str`, the write of a byte string by a command: the string, zero bytes after it, its length (R30). -/
def State.writeString (s : State) (k : Nat) (str : Bytes) : State :=
  s.setBuf k ⟨str.length, Memory.ofBytes 0 str⟩

/-! ### The life of a command -/

/-- The number of an error, as ERRCODE holds it (R300). -/
def CmdError.number : CmdError → Byte
  | .invalidScalar => 1
  | .pointAtInfinity => 2
  | .noInverse => 3
  | .invalidChecksum => 4
  | .invalidCharacter => 5
  | .illegalCommand => 6
  | .length => 7

/-- Issue of a command word (70_reset_and_hazards.md R344). It clears ERR and ERRCODE, which is all the "return"
from an error there is (R311). -/
def State.issue (s : State) (w : Word32) : State :=
  { s with cmdlatch := w, busy := true, err := false, errcode := 0 }

/-- Completion without error (R345). -/
def State.finish (s : State) : State := { s with busy := false, err := false, errcode := 0 }

/-- `raise E`: completion with an error; nothing else changes (R310). -/
def State.raise (s : State) (e : CmdError) : State := { s with busy := false, err := true, errcode := e.number }

/-- Completion of a command whose pseudocode, evaluated on `s`, gave the written state or raised (R345): a next
state in either case. -/
def State.conclude (s : State) (r : Except CmdError State) : Result :=
  .next (match r with
    | .ok t => t.finish
    | .error e => s.raise e)

/-- Go on with the next state, stop at a fault or a refusal. -/
def andThen {α β : Type} (o : Host.Outcome α Fault Refusal) (f : α → Host.Outcome β Fault Refusal) :
    Host.Outcome β Fault Refusal :=
  match o with
  | .next a => f a
  | .fault r => .fault r
  | .refused r => .refused r

end Sys2Proof.Machine
end

