-- ==== Sys2Proof/Machine/Flags.lean ====
section
/-! DEFINITION. The flags of STATUS (10_state.md R35, R41) and the control registers a host reads (R33, R37, R38).
The CORE has no arithmetic flags: no command reads a flag, and only PCHK writes one of its own (ONC). -/

namespace Sys2Proof.Machine

/-- STATUS as a host reads it: `BUSY + 2*ERR + 4*HAZ + 8*ONC`, bits 31:4 zero (R35). -/
def State.statusWord (s : State) : Word32 :=
  BitVec.ofNat 32 (s.busy.toNat + 2 * s.err.toNat + 4 * s.haz.toNat + 8 * s.onc.toNat)

/-- Record a refused access in the sticky flag HAZ (20_memory.md R76). -/
def State.setHaz (s : State) : State := { s with haz := true }

/-- A host write of `v` to STATUS while BUSY = 0 clears HAZ if bit 2 of `v` is 1 and does nothing else (R35). -/
def State.writeStatus (s : State) (v : Word32) : State := if v.getLsbD 2 then { s with haz := false } else s

/-- `STATUS.ONC <- b` (41_point.md R150). -/
def State.setOnc (s : State) (b : Bool) : State := { s with onc := b }

/-- `VER <- v` (45_base58.md R250). -/
def State.setVer (s : State) (v : Byte) : State := { s with ver := v }

/-- ERRCODE as a host reads it: 0 while BUSY = 1, bits 31:8 zero (R37). -/
def State.errcodeWord (s : State) : Word32 := if s.busy then 0 else BitVec.setWidth 32 s.errcode

/-- VER as a host reads it: bits 31:8 zero (R38). -/
def State.verWord (s : State) : Word32 := BitVec.setWidth 32 s.ver

end Sys2Proof.Machine
end

