-- ==== Sys2Proof/Machine/Operands.lean ====
section
/-! DEFINITION. How commands read their operands (00_scope.md R18): field elements, scalars, point values, byte
strings, the immediate. -/

namespace Sys2Proof.Machine

/-- `fe(i) = r[i] mod p`: the register read as a field element (40_field.md R120). -/
def State.fe (s : State) (i : Index) : Nat := (s.reg i.toNat).toNat % Config.p

/-- `r[i]` read as a scalar or as raw bits: all 256 bits, not reduced (10_state.md R21; 42_scalarmul.md R160). -/
def State.scalar (s : State) (i : Index) : Nat := (s.reg i.toNat).toNat

/-- The point value of the raw fields (10_state.md R26): coordinates are reduced modulo p on reading. -/
def PointReg.value (v : PointReg) : Point :=
  if v.inf then .infinity else .affine (v.x.toNat % Config.p) (v.y.toNat % Config.p)

/-- `pt(i)` (R26). -/
def State.pt (s : State) (i : Index) : Point := (s.point i.toNat).value

/-- The contents of a buffer: `data[0 : len]` (R29). -/
def Buffer.bytes (b : Buffer) : Bytes := b.data.readBytes 0 b.len

/-- `bytes(k)` (R29). -/
def State.contents (s : State) (k : Index) : Bytes := (s.buf k.toNat).bytes

end Sys2Proof.Machine
end

