-- ==== Sys2Proof/Machine/Sha256.lean ====
section
/-! DEFINITION. SHA-256 as 44_hash.md R190 to R195 gives it, and the double hash of R212. -/

namespace Sys2Proof.Machine

/-- The number of zero bytes of the padding of an L-byte message, `(55 - L) mod 64` (R191, R201). -/
def padZeros (L : Nat) : Nat := (64 + 55 - L % 64) % 64

/-- The number of 64-byte blocks of the padded message (R191). -/
def blockCount (L : Nat) : Nat := (L + 9 + padZeros L) / 64

/-- The padded message of SHA-256: the bit length big-endian (R191). -/
def shaPad (M : Bytes) : Bytes := M ++ [0x80] ++ zeros (padZeros M.length) ++ be (8 * M.length) 8

/-- The eight words of a chaining value, and the eight working words of a round (R192, R193). -/
structure ShaWords where
  /-- H[0], a -/
  a : Word32
  /-- H[1], b -/
  b : Word32
  /-- H[2], c -/
  c : Word32
  /-- H[3], d -/
  d : Word32
  /-- H[4], e -/
  e : Word32
  /-- H[5], f -/
  f : Word32
  /-- H[6], g -/
  g : Word32
  /-- H[7], h -/
  h : Word32
deriving DecidableEq, Repr

/-- The initial chaining value H0 (R192). -/
def shaInit : ShaWords :=
  ⟨0x6A09E667, 0xBB67AE85, 0x3C6EF372, 0xA54FF53A, 0x510E527F, 0x9B05688C, 0x1F83D9AB, 0x5BE0CD19⟩

/-- The round constants K[0..63] (R192). -/
def shaK : List Word32 :=
  [0x428A2F98, 0x71374491, 0xB5C0FBCF, 0xE9B5DBA5, 0x3956C25B, 0x59F111F1, 0x923F82A4, 0xAB1C5ED5,
   0xD807AA98, 0x12835B01, 0x243185BE, 0x550C7DC3, 0x72BE5D74, 0x80DEB1FE, 0x9BDC06A7, 0xC19BF174,
   0xE49B69C1, 0xEFBE4786, 0x0FC19DC6, 0x240CA1CC, 0x2DE92C6F, 0x4A7484AA, 0x5CB0A9DC, 0x76F988DA,
   0x983E5152, 0xA831C66D, 0xB00327C8, 0xBF597FC7, 0xC6E00BF3, 0xD5A79147, 0x06CA6351, 0x14292967] ++
  [0x27B70A85, 0x2E1B2138, 0x4D2C6DFC, 0x53380D13, 0x650A7354, 0x766A0ABB, 0x81C2C92E, 0x92722C85,
   0xA2BFE8A1, 0xA81A664B, 0xC24B8B70, 0xC76C51A3, 0xD192E819, 0xD6990624, 0xF40E3585, 0x106AA070,
   0x19A4C116, 0x1E376C08, 0x2748774C, 0x34B0BCB5, 0x391C0CB3, 0x4ED8AA4A, 0x5B9CCA4F, 0x682E6FF3,
   0x748F82EE, 0x78A5636F, 0x84C87814, 0x8CC70208, 0x90BEFFFA, 0xA4506CEB, 0xBEF9A3F7, 0xC67178F2]

/-- `ch` (R194). -/
def shaCh (x y z : Word32) : Word32 := (x &&& y) ^^^ (~~~x &&& z)

/-- `maj` (R194). -/
def shaMaj (x y z : Word32) : Word32 := (x &&& y) ^^^ (x &&& z) ^^^ (y &&& z)

/-- `bsig0` (R194). -/
def shaBsig0 (x : Word32) : Word32 := x.rotateRight 2 ^^^ x.rotateRight 13 ^^^ x.rotateRight 22

/-- `bsig1` (R194). -/
def shaBsig1 (x : Word32) : Word32 := x.rotateRight 6 ^^^ x.rotateRight 11 ^^^ x.rotateRight 25

/-- `ssig0` (R194). -/
def shaSsig0 (x : Word32) : Word32 := x.rotateRight 7 ^^^ x.rotateRight 18 ^^^ (x >>> 3)

/-- `ssig1` (R194). -/
def shaSsig1 (x : Word32) : Word32 := x.rotateRight 17 ^^^ x.rotateRight 19 ^^^ (x >>> 10)

/-- Extend a schedule, kept newest word first, by the given number of words: `W[t]` is computed from `W[t-2]`,
`W[t-7]`, `W[t-15]`, `W[t-16]`, which stand at places 1, 6, 14, 15 (R193). -/
def shaExtend : Nat → List Word32 → List Word32
  | 0, ws => ws
  | k + 1, ws =>
    shaExtend k ((shaSsig1 (ws.getD 1 0) + ws.getD 6 0 + shaSsig0 (ws.getD 14 0) + ws.getD 15 0) :: ws)

/-- The schedule `W[0..63]` of a 64-byte block (R193). -/
def shaSchedule (block : Bytes) : List Word32 := (shaExtend 48 ((pieces 4 block 16).map be32w).reverse).reverse

/-- One round with its constant `K[t]` and schedule word `W[t]`; every right-hand side uses the old words (R193). -/
def shaRound (s : ShaWords) (kw : Word32 × Word32) : ShaWords :=
  let t1 := s.h + shaBsig1 s.e + shaCh s.e s.f s.g + kw.1 + kw.2
  let t2 := shaBsig0 s.a + shaMaj s.a s.b s.c
  ⟨t1 + t2, s.a, s.b, s.c, s.d + t1, s.e, s.f, s.g⟩

/-- The compression of one block into the chaining value (R193). -/
def shaCompress (H : ShaWords) (block : Bytes) : ShaWords :=
  let r := (shaK.zip (shaSchedule block)).foldl shaRound H
  ⟨H.a + r.a, H.b + r.b, H.c + r.c, H.d + r.d, H.e + r.e, H.f + r.f, H.g + r.g, H.h + r.h⟩

/-- The words of a chaining value, in order. -/
def ShaWords.toList (H : ShaWords) : List Word32 := [H.a, H.b, H.c, H.d, H.e, H.f, H.g, H.h]

/-- SHA-256 of a byte string: 32 bytes (R190, R195). -/
def sha256 (M : Bytes) : Bytes :=
  let H := (pieces 64 (shaPad M) (blockCount M.length)).foldl shaCompress shaInit
  H.toList.flatMap fun w => be w.toNat 4

/-- `sha256d(s) = SHA-256(SHA-256(s))` (R212). -/
def sha256d (M : Bytes) : Bytes := sha256 (sha256 M)

end Sys2Proof.Machine
end

