-- ==== Sys2Proof/Machine/Base58.lean ====
section
/-! DEFINITION. The Base-58 codec with checksum and the commands B58ENC, B58DEC (45_base58.md). -/

namespace Sys2Proof.Machine

/-- The alphabet: the ASCII code of the character of each value 0 to 57 (R231, 00_scope.md R12). -/
def alphabet : List Byte :=
  [0x31, 0x32, 0x33, 0x34, 0x35, 0x36, 0x37, 0x38, 0x39, 0x41,
   0x42, 0x43, 0x44, 0x45, 0x46, 0x47, 0x48, 0x4A, 0x4B, 0x4C,
   0x4D, 0x4E, 0x50, 0x51, 0x52, 0x53, 0x54, 0x55, 0x56, 0x57,
   0x58, 0x59, 0x5A, 0x61, 0x62, 0x63, 0x64, 0x65, 0x66, 0x67,
   0x68, 0x69, 0x6A, 0x6B, 0x6D, 0x6E, 0x6F, 0x70, 0x71, 0x72,
   0x73, 0x74, 0x75, 0x76, 0x77, 0x78, 0x79, 0x7A]

/-- The character of value zero, `'1'` (R231). -/
def zeroChar : Byte := 0x31

/-- `chr58(d)`: the code of the character of value d, 0 to 57 (R231). -/
def chr58 (d : Nat) : Byte := alphabet.getD d zeroChar

/-- `val58(c)`: the value of the character with code c, by the ranges of R231, or none. -/
def val58 (c : Byte) : Option Nat :=
  let v := c.toNat
  if 0x31 ≤ v ∧ v ≤ 0x39 then some (v - 0x31)
  else if 0x41 ≤ v ∧ v ≤ 0x48 then some (v - 0x41 + 9)
  else if 0x4A ≤ v ∧ v ≤ 0x4E then some (v - 0x4A + 17)
  else if 0x50 ≤ v ∧ v ≤ 0x5A then some (v - 0x50 + 22)
  else if 0x61 ≤ v ∧ v ≤ 0x6B then some (v - 0x61 + 33)
  else if 0x6D ≤ v ∧ v ≤ 0x7A then some (v - 0x6D + 44)
  else none

/-- The checksum `chk(v) = sha256d(v)[0:4]` (R232). -/
def checksum (v : Bytes) : Bytes := (sha256d v).take 4

/-- The number of leading bytes equal to `b` (R234, and step 2 of R245 with the character of value zero). -/
def leadingCount (b : Byte) (s : Bytes) : Nat := (s.takeWhile (· == b)).length

/-- The base-58 digit values of N, least significant first, none for 0 (R236); the fuel bounds their number. -/
def digits58 : Nat → Nat → List Nat
  | 0, _ => []
  | fuel + 1, N => if N = 0 then [] else N % 58 :: digits58 fuel (N / 58)

/-- The base-58 text of N: its digits, most significant first, as characters (R236). N has at most `bitlen(N)`
digits. -/
def text58 (N : Nat) : Bytes := ((digits58 (bitlen N) N).map chr58).reverse

/-- `versioned ‖ checksum` (R233, steps 1 to 3). -/
def withChecksum (ver : Byte) (payload : Bytes) : Bytes := (ver :: payload) ++ checksum (ver :: payload)

/-- `encode(ver, payload)`, the six steps of R233. -/
def b58Encode (ver : Byte) (payload : Bytes) : Bytes :=
  let full := withChecksum ver payload
  let z := leadingCount 0 full
  List.replicate z zeroChar ++ text58 (fromBE (full.drop z))

/-- Step 1 of R245: the value of every character, or none if one is outside the alphabet. -/
def digitsOfText : Bytes → Option (List Nat)
  | [] => some []
  | c :: s =>
    match val58 c, digitsOfText s with
    | some d, some ds => some (d :: ds)
    | _, _ => none

/-- The integer of base-58 digits, most significant first (R245, step 3). -/
def fromDigits58 (ds : List Nat) : Nat := ds.foldl (fun acc d => 58 * acc + d) 0

/-- `full` of a text's digit values: a zero byte for each leading zero digit, then the shortest big-endian form of
the rest (R245 steps 2 to 4, R247). -/
def bytesOfDigits (ds : List Nat) : Bytes :=
  let z := (ds.takeWhile (· == 0)).length
  zeros z ++ minBE (fromDigits58 (ds.drop z))

/-- `decode(s)` (R245): every character is checked first (R246), then the length (R248), then the checksum. -/
def b58Decode (s : Bytes) : Except CmdError (Byte × Bytes) :=
  match digitsOfText s with
  | none => .error .invalidCharacter
  | some ds =>
    let full := bytesOfDigits ds
    if full.length < 5 then .error .invalidChecksum
    else
      let versioned := full.take (full.length - 4)
      if checksum versioned ≠ full.drop (full.length - 4) then .error .invalidChecksum
      else .ok (versioned.headD 0, versioned.tail)

/-- A result string that must fit a buffer: LengthError if it is longer (60_exceptions.md R307). -/
def fitBuffer (text : Bytes) : Except CmdError Bytes := if text.length > Config.bufCap then .error .length else .ok text

/-- B58ENC bd, bs1, ver (R240): LengthError when the text is longer than a buffer. -/
def execB58enc (bd bs1 : Index) (ver : Byte) (s : State) : Result :=
  s.conclude ((fitBuffer (b58Encode ver (s.contents bs1))).map (s.writeString bd.toNat))

/-- B58DEC bd, bs1 (R250): VER and the payload are written only on success. -/
def execB58dec (bd bs1 : Index) (s : State) : Result :=
  s.conclude ((b58Decode (s.contents bs1)).map fun d => (s.setVer d.1).writeString bd.toNat d.2)

end Sys2Proof.Machine
end

