-- ==== Sys2Proof/Machine/Field.lean ====
section
/-! DEFINITION. Field arithmetic modulo p and the commands FADD, FSUB, FMUL, FNEG, FINV (40_field.md). -/

namespace Sys2Proof.Machine

/-- The document's `add` modulo p (R121). -/
def fAdd (a b : Nat) : Nat := (a + b) % Config.p

/-- The document's `sub` modulo p: the non-negative remainder of the exact difference (R122, R15). -/
def fSub (a b : Nat) : Nat := (a % Config.p + (Config.p - b % Config.p)) % Config.p

/-- The document's `mul` modulo p: the remainder of the exact product (R123). -/
def fMul (a b : Nat) : Nat := a * b % Config.p

/-- The document's `negate` modulo p (R124). -/
def fNeg (a : Nat) : Nat := (Config.p - a % Config.p) % Config.p

/-- Square and multiply, least significant bit of the exponent first: `acc * b^e mod p` for `e < 2^fuel`. -/
def powLoop : Nat → Nat → Nat → Nat → Nat
  | 0, _, _, acc => acc
  | fuel + 1, b, e, acc => powLoop fuel (fMul b b) (e / 2) (if e % 2 = 1 then fMul acc b else acc)

/-- The inverse by Fermat's little theorem, `a^(p-2) mod p`: the algorithm this model computes (R128, log 8). -/
def fInv (a : Nat) : Nat := powLoop 256 (a % Config.p) (Config.p - 2) 1

/-- The loop of the extended Euclidean algorithm of R128 on `(r0, r1, s0, s1)`; none if the fuel runs out, which
the bound of `fInvEuclid` rules out. -/
def euclidLoop : Nat → Nat → Nat → Int → Int → Option (Nat × Int)
  | 0, _, _, _, _ => none
  | fuel + 1, r0, r1, s0, s1 =>
    if r1 = 0 then some (r0, s0)
    else euclidLoop fuel r1 (r0 - r0 / r1 * r1) s1 (s0 - (r0 / r1 : Nat) * s1)

/-- The inverse by the extended Euclidean algorithm, the other reference algorithm of R128; none where R128 raises
NoInverseError. -/
def fInvEuclid (a : Nat) : Option Nat :=
  match euclidLoop 513 Config.p (a % Config.p) 0 1 with
  | some (1, s0) => some (s0 % (Config.p : Int)).toNat
  | _ => none

/-- FADD rd, rs1, rs2 (R121). -/
def execFadd (rd rs1 rs2 : Index) (s : State) : Result :=
  s.conclude (.ok (s.writeReg rd.toNat (fAdd (s.fe rs1) (s.fe rs2))))

/-- FSUB rd, rs1, rs2 (R122). -/
def execFsub (rd rs1 rs2 : Index) (s : State) : Result :=
  s.conclude (.ok (s.writeReg rd.toNat (fSub (s.fe rs1) (s.fe rs2))))

/-- FMUL rd, rs1, rs2 (R123). -/
def execFmul (rd rs1 rs2 : Index) (s : State) : Result :=
  s.conclude (.ok (s.writeReg rd.toNat (fMul (s.fe rs1) (s.fe rs2))))

/-- FNEG rd, rs1 (R124). -/
def execFneg (rd rs1 : Index) (s : State) : Result :=
  s.conclude (.ok (s.writeReg rd.toNat (fNeg (s.fe rs1))))

/-- FINV rd, rs1 (R125): NoInverseError exactly when the operand reads as 0. -/
def execFinv (rd rs1 : Index) (s : State) : Result :=
  s.conclude (if s.fe rs1 = 0 then .error .noInverse else .ok (s.writeReg rd.toNat (fInv (s.fe rs1))))

end Sys2Proof.Machine
end

