-- ==== Sys2Proof/Machine/Curve.lean ====
section
/-! DEFINITION. Point doubling, addition and the on-curve test, and the commands PDBL, PADD, PCHK
(41_point.md). -/

namespace Sys2Proof.Machine

/-- The base point G (00_scope.md R10). -/
def basePoint : Point := .affine Config.gx Config.gy

/-- `double(P)` (R142). -/
def pointDouble : Point → Point
  | .infinity => .infinity
  | .affine x y =>
    if y = 0 then .infinity
    else
      let lam := fMul (3 * x * x) (fInv ((2 * y) % Config.p))
      let x3 := fSub (lam * lam) (2 * x)
      let y3 := fSub (lam * fSub x x3) y
      .affine x3 y3

/-- `add(P, Q)`, the cases in the order of R143. -/
def pointAdd (P Q : Point) : Point :=
  match P, Q with
  | .infinity, Q => Q
  | P, .infinity => P
  | .affine x1 y1, .affine x2 y2 =>
    if x1 = x2 ∧ y1 ≠ y2 then .infinity
    else if x1 = x2 ∧ y1 = y2 ∧ y1 = 0 then .infinity
    else if x1 = x2 ∧ y1 = y2 then pointDouble (.affine x1 y1)
    else
      let lam := fMul (fSub y2 y1) (fInv (fSub x2 x1))
      let x3 := fSub (lam * lam) (x1 + x2)
      let y3 := fSub (lam * fSub x1 x3) y1
      .affine x3 y3

/-- "On the curve" (00_scope.md R17): Infinity, or `y^2 mod p == (x^3 + 7) mod p`. -/
def onCurve : Point → Bool
  | .infinity => true
  | .affine x y => decide (y * y % Config.p = (x * x * x + Config.curveB) % Config.p)

/-- PDBL pd, ps1 (R145). -/
def execPdbl (pd ps1 : Index) (s : State) : Result :=
  s.conclude (.ok (s.writePoint pd.toNat (pointDouble (s.pt ps1))))

/-- PADD pd, ps1, ps2 (R146). -/
def execPadd (pd ps1 ps2 : Index) (s : State) : Result :=
  s.conclude (.ok (s.writePoint pd.toNat (pointAdd (s.pt ps1) (s.pt ps2))))

/-- PCHK ps1 (R150). -/
def execPchk (ps1 : Index) (s : State) : Result :=
  s.conclude (.ok (s.setOnc (onCurve (s.pt ps1))))

end Sys2Proof.Machine
end

