-- ==== Sys2Proof/Machine/Ripemd160.lean ====
section
/-! DEFINITION. RIPEMD-160 as 44_hash.md R200 to R205 gives it. -/

namespace Sys2Proof.Machine

/-- The padded message of RIPEMD-160: the bit length little-endian (R201). -/
def rmdPad (M : Bytes) : Bytes := M ++ [0x80] ++ zeros (padZeros M.length) ++ le (8 * M.length) 8

/-- The five words of a chaining value, and the five working words of a line (R202, R203). -/
structure RmdWords where
  /-- h[0], A -/
  a : Word32
  /-- h[1], Bv -/
  b : Word32
  /-- h[2], C -/
  c : Word32
  /-- h[3], D -/
  d : Word32
  /-- h[4], E -/
  e : Word32
deriving DecidableEq, Repr

/-- The initial chaining value (R202). -/
def rmdInit : RmdWords := ⟨0x67452301, 0xEFCDAB89, 0x98BADCFE, 0x10325476, 0xC3D2E1F0⟩

/-- The left line's round constants KL[0..4] (R202). -/
def rmdKL : List Word32 := [0x00000000, 0x5A827999, 0x6ED9EBA1, 0x8F1BBCDC, 0xA953FD4E]

/-- The right line's round constants KR[0..4] (R202). -/
def rmdKR : List Word32 := [0x50A28BE6, 0x5C4DD124, 0x6D703EF3, 0x7A6D76E9, 0x00000000]

/-- The left line's message word selection RL[0..79] (R202). -/
def rmdRL : List Nat :=
  [0, 1, 2, 3, 4, 5, 6, 7, 8, 9, 10, 11, 12, 13, 14, 15] ++
  [7, 4, 13, 1, 10, 6, 15, 3, 12, 0, 9, 5, 2, 14, 11, 8] ++
  [3, 10, 14, 4, 9, 15, 8, 1, 2, 7, 0, 6, 13, 11, 5, 12] ++
  [1, 9, 11, 10, 0, 8, 12, 4, 13, 3, 7, 15, 14, 5, 6, 2] ++
  [4, 0, 5, 9, 7, 12, 2, 10, 14, 1, 3, 8, 11, 6, 15, 13]

/-- The right line's message word selection RR[0..79] (R202). -/
def rmdRR : List Nat :=
  [5, 14, 7, 0, 9, 2, 11, 4, 13, 6, 15, 8, 1, 10, 3, 12] ++
  [6, 11, 3, 7, 0, 13, 5, 10, 14, 15, 8, 12, 4, 9, 1, 2] ++
  [15, 5, 1, 3, 7, 14, 6, 9, 11, 8, 12, 2, 10, 0, 4, 13] ++
  [8, 6, 4, 1, 3, 11, 15, 0, 5, 12, 2, 13, 9, 7, 10, 14] ++
  [12, 15, 10, 4, 1, 5, 8, 7, 6, 2, 13, 14, 0, 3, 9, 11]

/-- The left line's rotation amounts SL[0..79] (R202). -/
def rmdSL : List Nat :=
  [11, 14, 15, 12, 5, 8, 7, 9, 11, 13, 14, 15, 6, 7, 9, 8] ++
  [7, 6, 8, 13, 11, 9, 7, 15, 7, 12, 15, 9, 11, 7, 13, 12] ++
  [11, 13, 6, 7, 14, 9, 13, 15, 14, 8, 13, 6, 5, 12, 7, 5] ++
  [11, 12, 14, 15, 14, 15, 9, 8, 9, 14, 5, 6, 8, 6, 5, 12] ++
  [9, 15, 5, 11, 6, 8, 13, 12, 5, 12, 13, 14, 11, 8, 5, 6]

/-- The right line's rotation amounts SR[0..79] (R202). -/
def rmdSR : List Nat :=
  [8, 9, 9, 11, 13, 15, 15, 5, 7, 7, 8, 11, 14, 14, 12, 6] ++
  [9, 13, 15, 7, 12, 8, 9, 11, 7, 7, 12, 7, 6, 15, 13, 11] ++
  [9, 7, 15, 11, 8, 6, 6, 14, 12, 13, 5, 14, 13, 13, 7, 5] ++
  [15, 5, 8, 11, 14, 14, 6, 14, 6, 9, 12, 9, 12, 5, 15, 8] ++
  [8, 5, 12, 9, 12, 5, 14, 6, 8, 13, 6, 5, 15, 13, 11, 11]

/-- The functions `f(0, ...)` to `f(4, ...)` (R204). -/
def rmdF (round : Nat) (x y z : Word32) : Word32 :=
  match round with
  | 0 => x ^^^ y ^^^ z
  | 1 => (x &&& y) ||| (~~~x &&& z)
  | 2 => (x ||| ~~~y) ^^^ z
  | 3 => (x &&& z) ||| (y &&& ~~~z)
  | _ => x ^^^ (y ||| ~~~z)

/-- One step of a line: the function's number, the message word, the constant and the rotation (R203). -/
def rmdLineStep (s : RmdWords) (f : Nat) (x k : Word32) (amount : Nat) : RmdWords :=
  let t := (s.a + rmdF f s.b s.c s.d + x + k).rotateLeft amount + s.e
  ⟨s.e, t, s.b, s.c.rotateLeft 10, s.d⟩

/-- Step j of the left line, on the message words `X` (R203). -/
def rmdLeft (X : List Word32) (s : RmdWords) (j : Nat) : RmdWords :=
  rmdLineStep s (j / 16) (X.getD (rmdRL.getD j 0) 0) (rmdKL.getD (j / 16) 0) (rmdSL.getD j 0)

/-- Step j of the right line, which uses the functions in the opposite order (R203). -/
def rmdRight (X : List Word32) (s : RmdWords) (j : Nat) : RmdWords :=
  rmdLineStep s (4 - j / 16) (X.getD (rmdRR.getD j 0) 0) (rmdKR.getD (j / 16) 0) (rmdSR.getD j 0)

/-- The compression of one block into the chaining value (R203). -/
def rmdCompress (h : RmdWords) (block : Bytes) : RmdWords :=
  let X := (pieces 4 block 16).map le32
  let l := (List.range 80).foldl (rmdLeft X) h
  let r := (List.range 80).foldl (rmdRight X) h
  ⟨h.b + l.c + r.d, h.c + l.d + r.e, h.d + l.e + r.a, h.e + l.a + r.b, h.a + l.b + r.c⟩

/-- The words of a chaining value, in order. -/
def RmdWords.toList (h : RmdWords) : List Word32 := [h.a, h.b, h.c, h.d, h.e]

/-- RIPEMD-160 of a byte string: 20 bytes (R200, R205). -/
def ripemd160 (M : Bytes) : Bytes :=
  let h := (pieces 64 (rmdPad M) (blockCount M.length)).foldl rmdCompress rmdInit
  h.toList.flatMap fun w => le w.toNat 4

end Sys2Proof.Machine
end

