-- ==== Sys2Proof/Machine/Hash.lean ====
section
/-! DEFINITION. The hash commands SHA256, RMD160, HASH160 (44_hash.md). -/

namespace Sys2Proof.Machine

/-- The document's `Hash160.digest`: the 160-bit hash of the 256-bit hash, in that order (R210, R211). -/
def hash160 (M : Bytes) : Bytes := ripemd160 (sha256 M)

/-- SHA256 bd, bs1 (R196). -/
def execSha256 (bd bs1 : Index) (s : State) : Result :=
  s.conclude (.ok (s.writeString bd.toNat (sha256 (s.contents bs1))))

/-- RMD160 bd, bs1 (R206). -/
def execRmd160 (bd bs1 : Index) (s : State) : Result :=
  s.conclude (.ok (s.writeString bd.toNat (ripemd160 (s.contents bs1))))

/-- HASH160 bd, bs1 (R210). -/
def execHash160 (bd bs1 : Index) (s : State) : Result :=
  s.conclude (.ok (s.writeString bd.toNat (hash160 (s.contents bs1))))

end Sys2Proof.Machine
end

