-- ==== Sys2Proof/Machine/Move.lean ====
section
/-! DEFINITION. Moves between registers and buffers: the commands R2B, B2R, BAPP (46_move.md). -/

namespace Sys2Proof.Machine

/-- Append one byte to a buffer: the byte goes to `data[len]`, the other data bytes keep their values (R262). -/
def Buffer.append (b : Buffer) (v : Byte) : Buffer := ⟨b.len + 1, b.data.write b.len v⟩

/-- R2B bd, rs (R260): the raw register as 32 bytes, most significant first. -/
def execR2b (bd rs : Index) (s : State) : Result :=
  s.conclude (.ok (s.writeString bd.toNat (be (s.scalar rs) 32)))

/-- B2R rd, bs1 (R261): the contents as a big-endian number, LengthError for more than 32 bytes. -/
def execB2r (rd bs1 : Index) (s : State) : Result :=
  s.conclude (
    if (s.buf bs1.toNat).len > 32 then .error .length
    else .ok (s.writeReg rd.toNat (fromBE (s.contents bs1))))

/-- BAPP bd, imm (R262): LengthError for a full buffer. -/
def execBapp (bd : Index) (imm : Byte) (s : State) : Result :=
  s.conclude (
    if (s.buf bd.toNat).len = Config.bufCap then .error .length
    else .ok (s.setBuf bd.toNat ((s.buf bd.toNat).append imm)))

end Sys2Proof.Machine
end

