-- ==== Sys2Proof/Machine/PubKey.lean ====
section
/-! DEFINITION. The public-key serialiser and the commands SERC, SERU (43_pubkey.md). -/

namespace Sys2Proof.Machine

/-- `compress(point)` (R180, R181): prefix 0x02 or 0x03 by the parity of y, then x as 32 bytes. -/
def compress : Point → Except CmdError Bytes
  | .infinity => .error .pointAtInfinity
  | .affine x y => .ok ((if y % 2 = 0 then 0x02 else 0x03) :: be x 32)

/-- `uncompressed(point)` (R180, R182): prefix 0x04, then x and y as 32 bytes each. -/
def uncompressed : Point → Except CmdError Bytes
  | .infinity => .error .pointAtInfinity
  | .affine x y => .ok (0x04 :: (be x 32 ++ be y 32))

/-- SERC bd, ps1 (R181). -/
def execSerc (bd ps1 : Index) (s : State) : Result :=
  s.conclude ((compress (s.pt ps1)).map (s.writeString bd.toNat))

/-- SERU bd, ps1 (R182; 90_conflicts.md C6: Infinity fails as for SERC). -/
def execSeru (bd ps1 : Index) (s : State) : Result :=
  s.conclude ((uncompressed (s.pt ps1)).map (s.writeString bd.toNat))

end Sys2Proof.Machine
end

