-- ==== Sys2Proof/Machine/ScalarMul.lean ====
section
/-! DEFINITION. The scalar multiplier and the commands PMUL, PMULG, SCHK (42_scalarmul.md). -/

namespace Sys2Proof.Machine

/-- The loop of `multiply` (R161) on the rest of the scalar, `result` and `addend`: the addition uses the addend
before it is doubled. It stops when the rest of the scalar is 0, that is after `bitlen(k)` rounds. -/
def multiplyLoop : Nat → Nat → Point → Point → Point
  | 0, _, result, _ => result
  | fuel + 1, k, result, addend =>
    if k = 0 then result
    else multiplyLoop fuel (k / 2) (if k % 2 = 1 then pointAdd result addend else result) (pointDouble addend)

/-- `multiply(k, B)` for `0 <= k < 2^256` (R161): at most 256 rounds (R163). -/
def multiply (k : Nat) (B : Point) : Point := multiplyLoop 256 k .infinity B

/-- The scalar lies in `[1, n)` (60_exceptions.md R301). -/
def validScalar (k : Nat) : Bool := decide (k ≠ 0 ∧ k < Config.n)

/-- PMUL pd, rs, ps (R160): the scalar is raw and not checked. -/
def execPmul (pd rs ps : Index) (s : State) : Result :=
  s.conclude (.ok (s.writePoint pd.toNat (multiply (s.scalar rs) (s.pt ps))))

/-- PMULG pd, rs (R165): the range check comes before any curve operation. -/
def execPmulg (pd rs : Index) (s : State) : Result :=
  s.conclude (if validScalar (s.scalar rs) then .ok (s.writePoint pd.toNat (multiply (s.scalar rs) basePoint))
    else .error .invalidScalar)

/-- SCHK rs (R166): the range check alone; it writes nothing. -/
def execSchk (rs : Index) (s : State) : Result :=
  s.conclude (if validScalar (s.scalar rs) then .ok s else .error .invalidScalar)

end Sys2Proof.Machine
end

