-- ==== Sys2Proof/Machine/Dispatch.lean ====
section
/-! DEFINITION. The meaning of every command: one arm per constructor of `Instr`. -/

namespace Sys2Proof.Machine

def exec (i : Instr) (s : State) : Host.Outcome State Fault Refusal :=
  match i with
  -- field unit (40_field.md)
  | .fadd rd rs1 rs2 => Sys2Proof.Machine.execFadd rd rs1 rs2 s
  | .fsub rd rs1 rs2 => Sys2Proof.Machine.execFsub rd rs1 rs2 s
  | .fmul rd rs1 rs2 => Sys2Proof.Machine.execFmul rd rs1 rs2 s
  | .fneg rd rs1 => Sys2Proof.Machine.execFneg rd rs1 s
  | .finv rd rs1 => Sys2Proof.Machine.execFinv rd rs1 s
  -- point unit (41_point.md)
  | .pdbl pd ps1 => Sys2Proof.Machine.execPdbl pd ps1 s
  | .padd pd ps1 ps2 => Sys2Proof.Machine.execPadd pd ps1 ps2 s
  | .pchk ps1 => Sys2Proof.Machine.execPchk ps1 s
  -- scalar multiplier (42_scalarmul.md)
  | .pmul pd rs ps => Sys2Proof.Machine.execPmul pd rs ps s
  | .pmulg pd rs => Sys2Proof.Machine.execPmulg pd rs s
  | .schk rs => Sys2Proof.Machine.execSchk rs s
  -- public-key serialiser (43_pubkey.md)
  | .serc bd ps1 => Sys2Proof.Machine.execSerc bd ps1 s
  | .seru bd ps1 => Sys2Proof.Machine.execSeru bd ps1 s
  -- hash cores (44_hash.md)
  | .sha256 bd bs1 => Sys2Proof.Machine.execSha256 bd bs1 s
  | .rmd160 bd bs1 => Sys2Proof.Machine.execRmd160 bd bs1 s
  | .hash160 bd bs1 => Sys2Proof.Machine.execHash160 bd bs1 s
  -- Base-58 codec (45_base58.md)
  | .b58enc bd bs1 ver => Sys2Proof.Machine.execB58enc bd bs1 ver s
  | .b58dec bd bs1 => Sys2Proof.Machine.execB58dec bd bs1 s
  -- moves (46_move.md)
  | .r2b bd rs => Sys2Proof.Machine.execR2b bd rs s
  | .b2r rd bs1 => Sys2Proof.Machine.execB2r rd bs1 s
  | .bapp bd imm => Sys2Proof.Machine.execBapp bd imm s

end Sys2Proof.Machine
end

