-- ==== Sys2Proof/Machine/HostPort.lean ====
section
/-! DEFINITION. The host register space of one instance (20_memory.md R60 to R77): the register map, host reads
and writes, refused accesses. -/

namespace Sys2Proof.Machine

/-- What a word of the register map is (R70). -/
inductive Location where
  /-- ID (R33). -/
  | id
  /-- CMD (R34). -/
  | cmd
  /-- STATUS (R35). -/
  | status
  /-- ERRCODE (R37). -/
  | errcode
  /-- VER (R38). -/
  | ver
  /-- BLEN[k] (R73). -/
  | blen (k : Nat)
  /-- R[i] word j (R72). -/
  | reg (i j : Nat)
  /-- PX[i] word j (R77). -/
  | px (i j : Nat)
  /-- PY[i] word j (R77). -/
  | py (i j : Nat)
  /-- PINF[i] (R77). -/
  | pinf (i : Nat)
  /-- BDATA[k] word w (R74). -/
  | bdata (k w : Nat)
  /-- A word of the constant window, with its value (R75). -/
  | constant (value : Word32)
  /-- A reserved offset (R71). -/
  | reserved
deriving DecidableEq, Repr

/-- Word j of a 256-bit constant (R63, R75). -/
def constWord (v j : Nat) : Word32 := wordOf (BitVec.ofNat 256 v) j

/-- The register map (R70), for an offset below 0x800 that is a multiple of 4. -/
def locate (off : Nat) : Location :=
  if off = 0x000 then .id
  else if off = 0x004 then .cmd
  else if off = 0x008 then .status
  else if off = 0x00C then .errcode
  else if off = 0x010 then .ver
  else if off < 0x020 then .reserved
  else if off < 0x030 then .blen ((off - 0x020) / 4)
  else if off < 0x100 then .reserved
  else if off < 0x200 then .reg ((off - 0x100) / 0x20) (off % 0x20 / 4)
  else if off < 0x400 then
    if off % 0x80 < 0x20 then .px ((off - 0x200) / 0x80) (off % 0x80 / 4)
    else if off % 0x80 < 0x40 then .py ((off - 0x200) / 0x80) (off % 0x80 / 4 - 8)
    else if off % 0x80 = 0x40 then .pinf ((off - 0x200) / 0x80)
    else .reserved
  else if off < 0x600 then .bdata ((off - 0x400) / 0x80) (off % 0x80 / 4)
  else if off < 0x620 then .constant (constWord Config.p (off % 0x20 / 4))
  else if off < 0x640 then .constant (constWord Config.n (off % 0x20 / 4))
  else if off < 0x660 then .constant (constWord Config.gx (off % 0x20 / 4))
  else if off < 0x680 then .constant (constWord Config.gy (off % 0x20 / 4))
  else if off = 0x680 then .constant (BitVec.ofNat 32 Config.curveB)
  else .reserved

/-- The offset of BLEN[k] (R70). -/
def offBlen (k : Nat) : Nat := 0x020 + 4 * k

/-- The offset of R[i] word j (R70). -/
def offReg (i j : Nat) : Nat := 0x100 + 0x20 * i + 4 * j

/-- The offset of PX[i] word j (R70). -/
def offPx (i j : Nat) : Nat := 0x200 + 0x80 * i + 4 * j

/-- The offset of PY[i] word j (R70). -/
def offPy (i j : Nat) : Nat := 0x220 + 0x80 * i + 4 * j

/-- The offset of PINF[i] (R70). -/
def offPinf (i : Nat) : Nat := 0x240 + 0x80 * i

/-- The offset of BDATA[k] word w (R70). -/
def offBdata (k w : Nat) : Nat := 0x400 + 0x80 * k + 4 * w

/-- What a host read of the location returns when it is served (R33 to R38, R71 to R77). -/
def State.readLocation (s : State) : Location → Word32
  | .id => Config.idWord
  | .cmd => 0
  | .status => s.statusWord
  | .errcode => s.errcodeWord
  | .ver => s.verWord
  | .blen k => BitVec.ofNat 32 (s.buf k).len
  | .reg i j => wordOf (s.reg i) j
  | .px i j => wordOf (s.point i).x j
  | .py i j => wordOf (s.point i).y j
  | .pinf i => BitVec.ofNat 32 (s.point i).inf.toNat
  | .bdata k w => le32 ((s.buf k).data.readBytes (4 * w) 4)
  | .constant v => v
  | .reserved => 0

/-- The locations whose read is refused while BUSY = 1 (R76). -/
def Location.refusesReadWhileBusy : Location → Bool
  | .ver | .blen _ | .reg _ _ | .px _ _ | .py _ _ | .pinf _ | .bdata _ _ => true
  | .id | .cmd | .status | .errcode | .constant _ | .reserved => false

/-- `HostRead` of a location: the returned word and the state after it (R66, R76). -/
def State.hostRead (s : State) (l : Location) : Word32 × State :=
  if s.busy && l.refusesReadWhileBusy then (0, s.setHaz) else (s.readLocation l, s)

/-- The effect of a host write to a location while BUSY = 0 (R34, R35, R71 to R74, R77). -/
def State.writeLocation (s : State) (v : Word32) : Location → State
  | .cmd => s.issue v
  | .status => s.writeStatus v
  | .blen k => if v.toNat ≤ Config.bufCap then s.setBuf k ⟨v.toNat, (s.buf k).data⟩ else s.setHaz
  | .reg i j => s.setReg i (withWord (s.reg i) j v)
  | .px i j => s.setPoint i ⟨(s.point i).inf, withWord (s.point i).x j v, (s.point i).y⟩
  | .py i j => s.setPoint i ⟨(s.point i).inf, (s.point i).x, withWord (s.point i).y j v⟩
  | .pinf i => s.setPoint i ⟨v.getLsbD 0, (s.point i).x, (s.point i).y⟩
  | .bdata k w => s.setBuf k ⟨(s.buf k).len, (s.buf k).data.writeBytes (4 * w) (le v.toNat 4)⟩
  | .id | .errcode | .ver | .constant _ | .reserved => s

/-- `HostWrite` to a location: while BUSY = 1 every write but to a reserved offset is refused (R71, R76). -/
def State.hostWrite (s : State) (l : Location) (v : Word32) : State :=
  if s.busy then (if l = .reserved then s else s.setHaz) else s.writeLocation v l

/-- Record the word a host read returned, for the host (the model's own, log 2). -/
def State.respond (s : State) (v : Word32) : State := { s with responses := v :: s.responses }

/-- A host access has a step only if it is an aligned word inside the window (R64, 93_implementation_defined.md
I11; log 6). -/
def atOffset (off : Nat) (access : Location → State) : Result :=
  if Config.windowSize ≤ off then .fault (.outsideWindow off)
  else if off % 4 ≠ 0 then .refused (.misalignedAccess off)
  else .next (access (locate off))

/-- The event `HostRead(off)`. -/
def State.eventRead (s : State) (off : Nat) : Result :=
  atOffset off fun l => (s.hostRead l).2.respond (s.hostRead l).1

/-- The event `HostWrite(off, v)`. -/
def State.eventWrite (s : State) (off : Nat) (v : Word32) : Result :=
  atOffset off fun l => s.hostWrite l v

/-- The event of the reset input (70_reset_and_hazards.md R340): every piece of the spec's state takes its reset
value at once. What is outside the instance, the events still to come and the words the host has received, is
not reset (log 10). -/
def State.eventReset (s : State) : State := { State.reset with inputs := s.inputs, responses := s.responses }

end Sys2Proof.Machine
end

