-- ==== Sys2Proof/Machine/Engine.lean ====
section
/-! DEFINITION. The engine's step `Complete` and the effect of every event (00_scope.md R14;
70_reset_and_hazards.md R340, R344, R345). -/

namespace Sys2Proof.Machine

/-- `Complete` (R345): decode `cmdlatch`; an illegal word raises IllegalCommand before any operand is read
(60_exceptions.md R306). -/
def State.complete (s : State) : Result :=
  match decode s.cmdlatch with
  | .error _ => .next (s.raise .illegalCommand)
  | .ok i => exec i s

/-- The engine's turn: `Complete` is enabled exactly when BUSY = 1 (R345); an idle engine does nothing (R335). -/
def State.engineTurn (s : State) : Result := if s.busy then s.complete else .next s

/-- The effect of one event. -/
def State.event (s : State) : Event → Result
  | .write off v => s.eventWrite off v
  | .read off => s.eventRead off
  | .otherWidth off bits => .refused (.wrongWidth off bits)
  | .engine => s.engineTurn
  | .reset => .next s.eventReset

/-- A sequence of events, in order (20_memory.md R80), stopping at the first fault or refusal. -/
def State.events (s : State) : List Event → Result
  | [] => .next s
  | e :: es => andThen (s.event e) fun t => t.events es

end Sys2Proof.Machine
end

