-- ==== Sys2Proof/Machine/Step.lean ====
section
/-! DEFINITION. One step of the machine, and how the host of this pipeline places an instruction where the next
step runs it. -/

namespace Sys2Proof.Machine

/-- One step: the next event of `inputs` if there is one, otherwise the engine's turn (R14, R346; log 1). -/
def step (s : State) : Host.Outcome State Fault Refusal :=
  match s.inputs with
  | [] => s.engineTurn
  | e :: es => State.event { s with inputs := es } e

/-- The state in which the command word `w` (its low `nbits` bits) has just been issued (R344) and the engine's
turn is next (log 3). -/
def State.withFetchWord (s : State) (nbits w : Nat) : State :=
  { s.issue (BitVec.ofNat 32 (w % 2 ^ nbits)) with inputs := [] }

end Sys2Proof.Machine
end

