-- ==== Sys2Proof/Machine/Pipeline.lean ====
section
/-! DEFINITION. How a host runs commands and programs, the pseudo-instructions, and the two derivation pipelines
(30_encoding.md R101; 47_pipeline.md R270 to R273). -/

namespace Sys2Proof.Machine

/-- The host procedure `run(w)` with the polling abstracted away (R272): wait until the engine is idle, write CMD,
wait for completion, read ERR and ERRCODE. -/
def runWord (w : Word32) (s : State) : Host.Outcome (State × Nat) Fault Refusal :=
  andThen s.engineTurn fun s1 =>
  andThen (s1.eventWrite 0x004 w) fun s2 =>
  andThen s2.engineTurn fun s3 =>
  .next (s3, if s3.err then s3.errcode.toNat else 0)

/-- A program, a list of command words, run until the first nonzero error number (R272, R273). -/
def runProgram : List Word32 → State → Host.Outcome (State × Nat) Fault Refusal
  | [], s => .next (s, 0)
  | w :: ws, s => andThen (runWord w s) fun r => if r.2 ≠ 0 then .next r else runProgram ws r.1

/-- The pseudo-instructions of R101. -/
inductive Pseudo where
  /-- FSQR rd, rs1. -/
  | fsqr (rd rs1 : Index)
  /-- FDBL rd, rs1. -/
  | fdbl (rd rs1 : Index)
  /-- FRED rd, rs1. -/
  | fred (rd rs1 : Index)
  /-- DERIVEADDR.C (compressed) or DERIVEADDR.U: bd, rs, pt, bt. -/
  | deriveAddr (compressed : Bool) (bd rs pt bt : Index)
  /-- DERIVEWIF.C (compressed) or DERIVEWIF.U: bd, rs, bt. -/
  | deriveWif (compressed : Bool) (bd rs bt : Index)
deriving DecidableEq, Repr

/-- The expansion of a pseudo-instruction into commands (R101, R270, R271). -/
def Pseudo.expand : Pseudo → List Instr
  | .fsqr rd rs1 => [.fmul rd rs1 rs1]
  | .fdbl rd rs1 => [.fadd rd rs1 rs1]
  | .fred rd rs1 => [.fneg rd rs1, .fneg rd rd]
  | .deriveAddr compressed bd rs pt bt =>
    [.pmulg pt rs, if compressed then .serc bt pt else .seru bt pt, .hash160 bt bt, .b58enc bd bt Config.verAddr]
  | .deriveWif true bd rs bt => [.schk rs, .r2b bt rs, .bapp bt Config.wifMarker, .b58enc bd bt Config.verWif]
  | .deriveWif false bd rs bt => [.schk rs, .r2b bt rs, .b58enc bd bt Config.verWif]

/-- The program of a pseudo-instruction. -/
def Pseudo.program (q : Pseudo) : List Word32 := q.expand.map encode

/-- The host directive `BCLR bk`: the host write `BLEN[k] = 0` (R101). -/
def bclr (k : Nat) : Event := .write (offBlen k) 0

/-- The document's `deriveAddress(scalar, compressed)` as a function (R270). -/
def deriveAddress (k : Nat) (compressed : Bool) : Except CmdError Bytes :=
  if validScalar k then
    (if compressed then compress (multiply k basePoint) else uncompressed (multiply k basePoint)).map
      fun key => b58Encode Config.verAddr (hash160 key)
  else .error .invalidScalar

/-- The document's `deriveWIF(scalar, compressed)` as a function (R271). -/
def deriveWif (k : Nat) (compressed : Bool) : Except CmdError Bytes :=
  if validScalar k then
    .ok (b58Encode Config.verWif (be k 32 ++ if compressed then [Config.wifMarker] else []))
  else .error .invalidScalar

end Sys2Proof.Machine
end

