-- ==== Sys2Proof/Machine/Oracle.lean ====
section
/-! DEFINITION. The Oracle, host software (47_pipeline.md R274 to R278). -/

namespace Sys2Proof.Machine

/-- The host writes that load `r[i]`, least significant word first (20_memory.md R72). -/
def loadReg (i : Nat) (v : Word256) : List Event :=
  (List.range 8).map fun j => .write (offReg i j) (wordOf v j)

/-- `matchesTarget(k, target)` (R274), once the engine is idle: the answer, or the error number. A candidate of
2^256 or more is rejected by the host itself with InvalidScalarError (R278). -/
def matchesTarget (k : Nat) (target : Bytes) (s : State) : Host.Outcome (State × Except Nat Bool) Fault Refusal :=
  if 2 ^ 256 ≤ k then .next (s, .error CmdError.invalidScalar.number.toNat)
  else
    andThen s.engineTurn fun s0 =>
    andThen (s0.events (loadReg 0 (BitVec.ofNat 256 k))) fun s1 =>
    andThen (runProgram (Pseudo.deriveAddr true 1 0 0 0).program s1) fun r =>
    if r.2 ≠ 0 then .next (r.1, .error r.2)
    else
      andThen (runProgram ([.seru 0 0, .hash160 0 0, .b58enc 1 0 Config.verAddr].map encode) r.1) fun q =>
      .next (q.1, .ok (r.1.contents 1 == target || q.1.contents 1 == target))

/-- `inBitRange(scalar, n)` (R275): `2^(n-1) <= scalar < 2^n`; `n = 0` is outside its domain (log 11). -/
def inBitRange (scalar n : Nat) : Option Bool :=
  if n = 0 then none else some (decide (2 ^ (n - 1) ≤ scalar ∧ scalar < 2 ^ n))

/-- `sharedPrefix(a, t)`: the length of the longest shared leading part (R276). -/
def sharedPrefix : Bytes → Bytes → Nat
  | x :: a, y :: t => if x = y then sharedPrefix a t + 1 else 0
  | _, _ => 0

end Sys2Proof.Machine
end

