-- ==== Sys2Proof/Machine/Platform.lean ====
section
/-! DEFINITION. A platform with several instances of the CORE (60_exceptions.md R330; 47_pipeline.md R279). The two
open parameters of 00_scope.md R7 are arguments: `nCores` and `base` (log 9). -/

namespace Sys2Proof.Machine

/-- The instances of a platform: for each, its state, or the reason it has no further step. -/
abbrev Platform := List Result

/-- All instances leave reset in the same state (R330). -/
def Platform.reset (nCores : Nat) : Platform := List.replicate nCores (.next State.reset)

/-- An event reaches an instance. -/
def instanceEvent (r : Result) (e : Event) : Result := andThen r fun s => s.event e

/-- An event of instance `c` changes instance `c` and no other (R330: "instances share nothing"). -/
def Platform.event (P : Platform) (ce : Nat × Event) : Platform := P.modify ce.1 fun r => instanceEvent r ce.2

/-- A sequence of events of the platform's instances, in any interleaving. -/
def Platform.run (P : Platform) (es : List (Nat × Event)) : Platform := es.foldl Platform.event P

/-- The events of instance `c` among those of the platform, in their order. -/
def eventsOf (c : Nat) (es : List (Nat × Event)) : List Event :=
  (es.filter fun ce => ce.1 == c).map Prod.snd

/-- BASE[c] is a multiple of 0x800 and the windows do not overlap (00_scope.md R7; 92_eei_decisions.md, open
parameters). -/
def basesOk (nCores : Nat) (base : Nat → Nat) : Prop :=
  ∀ c, c < nCores → base c % Config.windowSize = 0 ∧ ∀ d, d < nCores → base c = base d → c = d

/-- The instance and the offset in its window that a platform address belongs to, if any (20_memory.md R70). -/
def windowOf (nCores : Nat) (base : Nat → Nat) (addr : Nat) : Option (Nat × Nat) :=
  ((List.range nCores).find? fun c => decide (base c ≤ addr ∧ addr < base c + Config.windowSize)).map
    fun c => (c, addr - base c)

end Sys2Proof.Machine
end

