-- ==== Sys2Proof/Safety.lean ====
section
/-! DEFINITION. What counts as a legal outside world and a legal state, and the vocabulary in which claims say what a
command changed and what it left alone. -/

namespace Sys2Proof.Machine

/-! ### Legal inputs, legal states -/

/-- The host access is an aligned word inside the window: what a platform may present (20_memory.md R64). -/
def Event.allowed : Event → Bool
  | .write off _ => decide (off < Config.windowSize ∧ off % 4 = 0)
  | .read off => decide (off < Config.windowSize ∧ off % 4 = 0)
  | .otherWidth _ _ => false
  | .engine => true
  | .reset => true

/-- Every event still to come is one a platform may present. -/
def State.InputsAllowed (s : State) : Prop := ∀ e ∈ s.inputs, e.allowed = true

/-- The buffer's length is within its capacity and its space is in canonical form (10_state.md R28, R43). -/
def Buffer.Ok (b : Buffer) : Prop := b.len ≤ Config.bufCap ∧ b.data.wf

/-- The invariants of every reachable state (10_state.md R43), and the canonical form of the buffer spaces. -/
structure State.Inv (s : State) : Prop where
  /-- `len <= BUFCAP`, and the space is in canonical form, for every buffer. -/
  bufsOk : ∀ k, k < Config.nBuf → (s.buf k).Ok
  /-- `ERR = 1` if and only if `ERRCODE != 0`. -/
  errIff : s.err = true ↔ s.errcode ≠ 0
  /-- `ERRCODE <= 7`. -/
  errcodeLe : s.errcode.toNat ≤ 7
  /-- While BUSY = 1, ERR = 0 and ERRCODE = 0. -/
  busyClear : s.busy = true → s.err = false ∧ s.errcode = 0

/-! ### What is unchanged from `s` to `t` -/

/-- Every general register is unchanged. -/
def SameRegs (s t : State) : Prop := ∀ i, t.reg i = s.reg i

/-- Every point register is unchanged, raw fields and all. -/
def SamePoints (s t : State) : Prop := ∀ i, t.point i = s.point i

/-- The length and every byte of buffer `k` are unchanged. -/
def SameBuf (s t : State) (k : Nat) : Prop :=
  (t.buf k).len = (s.buf k).len ∧ ∀ a, t.readByte k a = s.readByte k a

/-- The length and every byte of every buffer are unchanged: all of memory. -/
def SameBufs (s t : State) : Prop := ∀ k, SameBuf s t k

/-- HAZ, `cmdlatch`, the events to come and the words the host has received are unchanged. -/
def SameHostSide (s t : State) : Prop :=
  t.haz = s.haz ∧ t.cmdlatch = s.cmdlatch ∧ t.inputs = s.inputs ∧ t.responses = s.responses

/-- As `SameHostSide`, and ONC and VER are unchanged. -/
def SameControl (s t : State) : Prop := SameHostSide s t ∧ t.onc = s.onc ∧ t.ver = s.ver

/-- BUSY, ERR and ERRCODE are unchanged. -/
def SameLife (s t : State) : Prop := t.busy = s.busy ∧ t.err = s.err ∧ t.errcode = s.errcode

/-! ### How a command ended -/

/-- The command completed without error (R345). -/
def Completed (t : State) : Prop := t.busy = false ∧ t.err = false ∧ t.errcode = 0

/-- The command completed with the error number `code` and nothing else changed (60_exceptions.md R310). -/
def Raised (s t : State) (code : Byte) : Prop :=
  t.busy = false ∧ t.err = true ∧ t.errcode = code ∧ SameRegs s t ∧ SamePoints s t ∧ SameBufs s t ∧ SameControl s t

/-- Completed without error, and nothing but the life of the command changed. -/
def OnlyCompleted (s t : State) : Prop :=
  Completed t ∧ SameRegs s t ∧ SamePoints s t ∧ SameBufs s t ∧ SameControl s t

/-- Completed without error, and no data but register `i` changed. -/
def OnlyReg (s t : State) (i : Nat) : Prop :=
  Completed t ∧ (∀ j, j ≠ i → t.reg j = s.reg j) ∧ SamePoints s t ∧ SameBufs s t ∧ SameControl s t

/-- Completed without error, and no data but point register `i` changed. -/
def OnlyPoint (s t : State) (i : Nat) : Prop :=
  Completed t ∧ SameRegs s t ∧ (∀ j, j ≠ i → t.point j = s.point j) ∧ SameBufs s t ∧ SameControl s t

/-- Completed without error, and no data but buffer `k` changed. -/
def OnlyBuf (s t : State) (k : Nat) : Prop :=
  Completed t ∧ SameRegs s t ∧ SamePoints s t ∧ (∀ j, j ≠ k → SameBuf s t j) ∧ SameControl s t

/-- Buffer `k` holds the byte string: its length, its bytes, and 0 at every later address (10_state.md R30). -/
def BufHolds (t : State) (k : Nat) (str : Bytes) : Prop :=
  (t.buf k).len = str.length ∧ ∀ a, t.readByte k a = str.getD a 0

/-! ### Values, said without the functions the meanings use -/

/-- The point register holds the point value as R27 says a command writes it: Infinity as `(1, 0, 0)`, an affine
point as its two coordinates. -/
def HoldsPoint (v : PointReg) : Point → Prop
  | .infinity => v.inf = true ∧ v.x = 0 ∧ v.y = 0
  | .affine x y => v.inf = false ∧ v.x.toNat = x ∧ v.y.toNat = y

/-- The value of a command word by the places of its fields (30_encoding.md R100). -/
def wordValue (op : Nat) (a b c : Index) (imm : Byte) : Nat :=
  op * 2 ^ 24 + a.toNat * 2 ^ 20 + b.toNat * 2 ^ 16 + c.toNat * 2 ^ 12 + imm.toNat

/-- The point register holds the double of the affine point `(x, y)`, `y` not 0, by its tangent slope
(41_point.md R142). -/
def HoldsDouble (x y : Nat) (v : PointReg) : Prop :=
  ∃ lam : Nat, lam < Config.p ∧ lam * (2 * y) % Config.p = 3 * x * x % Config.p ∧ v.inf = false ∧
    (v.x.toNat : Int) = ((lam : Int) * lam - 2 * x) % Config.p ∧
    (v.y.toNat : Int) = ((lam : Int) * (x - v.x.toNat) - y) % Config.p

/-- The point register holds the sum of the affine points `(x1, y1)` and `(x2, y2)`, `x1` and `x2` different, by
their chord slope (R143, case 6). -/
def HoldsChordSum (x1 y1 x2 y2 : Nat) (v : PointReg) : Prop :=
  ∃ lam : Nat, lam < Config.p ∧ ((lam : Int) * (x2 - x1)) % Config.p = ((y2 : Int) - y1) % Config.p ∧ v.inf = false ∧
    (v.x.toNat : Int) = ((lam : Int) * lam - x1 - x2) % Config.p ∧
    (v.y.toNat : Int) = ((lam : Int) * (x1 - v.x.toNat) - y1) % Config.p

/-- `m` rounds of double-and-add over the bits of `k`, from bit 0 up, as the loop of 42_scalarmul.md R161 writes
them: the addition before the doubling. -/
def doubleAndAdd (k m : Nat) (B : Point) : Point :=
  ((List.range m).foldl
    (fun (ra : Point × Point) i => (if k.testBit i then pointAdd ra.1 ra.2 else ra.1, pointDouble ra.2))
    (.infinity, B)).1

/-- Both coordinates are field elements (00_scope.md R17). -/
def Point.Canonical : Point → Prop
  | .infinity => True
  | .affine x y => x < Config.p ∧ y < Config.p

/-! ### The host port, said with offsets -/

/-- The reserved offsets of the register map, for a multiple of 4 below 0x800 (20_memory.md R70). -/
def reservedOffset (off : Nat) : Bool :=
  decide ((0x014 ≤ off ∧ off ≤ 0x01C) ∨ (0x030 ≤ off ∧ off ≤ 0x0FC) ∨
    (0x200 ≤ off ∧ off < 0x400 ∧ 0x44 ≤ off % 0x80) ∨ (0x684 ≤ off ∧ off ≤ 0x7FC))

/-- The offsets of VER, BLEN, R, PX, PY, PINF and BDATA, for a multiple of 4 below 0x800 (R70, R76). -/
def dataOffset (off : Nat) : Bool :=
  decide (off = 0x010 ∨ (0x020 ≤ off ∧ off ≤ 0x02C) ∨ (0x100 ≤ off ∧ off < 0x200) ∨
    (0x200 ≤ off ∧ off < 0x400 ∧ off % 0x80 ≤ 0x40) ∨ (0x400 ≤ off ∧ off < 0x600))

/-- The read of `off` returns `w` to the host and does nothing else (R66). -/
def ReadServed (s : State) (off : Nat) (w : Word32) : Prop :=
  s.eventRead off = .next { s with responses := w :: s.responses }

/-- The read of `off` is refused: it returns 0 and sets HAZ (R76). -/
def ReadRefused (s : State) (off : Nat) : Prop :=
  s.eventRead off = .next { s with haz := true, responses := 0 :: s.responses }

/-- The write of `v` at `off` is refused: it is dropped and sets HAZ (R76). -/
def WriteRefused (s : State) (off : Nat) (v : Word32) : Prop := s.eventWrite off v = .next { s with haz := true }

/-- The write of `v` at `off` does nothing at all (R71). -/
def WriteIgnored (s : State) (off : Nat) (v : Word32) : Prop := s.eventWrite off v = .next s

/-- The event is a host read or a host write. -/
def Event.isHostAccess : Event → Bool
  | .write _ _ | .read _ => true
  | .otherWidth _ _ | .engine | .reset => false

/-! ### What each command may write -/

/-- The register a command writes (10_state.md R22). -/
def writesReg : Instr → Option Index
  | .fadd rd _ _ | .fsub rd _ _ | .fmul rd _ _ | .fneg rd _ | .finv rd _ | .b2r rd _ => some rd
  | .pdbl _ _ | .padd _ _ _ | .pchk _ | .pmul _ _ _ | .pmulg _ _ | .schk _ | .serc _ _ | .seru _ _ | .sha256 _ _
  | .rmd160 _ _ | .hash160 _ _ | .b58enc _ _ _ | .b58dec _ _ | .r2b _ _ | .bapp _ _ => none

/-- The point register a command writes (R27). -/
def writesPoint : Instr → Option Index
  | .pdbl pd _ | .padd pd _ _ | .pmul pd _ _ | .pmulg pd _ => some pd
  | .fadd _ _ _ | .fsub _ _ _ | .fmul _ _ _ | .fneg _ _ | .finv _ _ | .pchk _ | .schk _ | .serc _ _ | .seru _ _
  | .sha256 _ _ | .rmd160 _ _ | .hash160 _ _ | .b58enc _ _ _ | .b58dec _ _ | .r2b _ _ | .b2r _ _ | .bapp _ _ => none

/-- The buffer a command writes (R31). -/
def writesBuf : Instr → Option Index
  | .serc bd _ | .seru bd _ | .sha256 bd _ | .rmd160 bd _ | .hash160 bd _ | .b58enc bd _ _ | .b58dec bd _
  | .r2b bd _ | .bapp bd _ => some bd
  | .fadd _ _ _ | .fsub _ _ _ | .fmul _ _ _ | .fneg _ _ | .finv _ _ | .pdbl _ _ | .padd _ _ _ | .pchk _
  | .pmul _ _ _ | .pmulg _ _ | .schk _ | .b2r _ _ => none

/-- The error numbers a command can end with, besides 0 (60_exceptions.md R313). -/
def possibleErrors : Instr → List Byte
  | .finv _ _ => [3]
  | .pmulg _ _ | .schk _ => [1]
  | .serc _ _ | .seru _ _ => [2]
  | .b58enc _ _ _ | .b2r _ _ | .bapp _ _ => [7]
  | .b58dec _ _ => [4, 5]
  | .fadd _ _ _ | .fsub _ _ _ | .fmul _ _ _ | .fneg _ _ | .pdbl _ _ | .padd _ _ _ | .pchk _ | .pmul _ _ _
  | .sha256 _ _ | .rmd160 _ _ | .hash160 _ _ | .r2b _ _ => []

end Sys2Proof.Machine
end

