-- ==== Sys2Proof/Certificates/Slice0/Obligations.lean ====
section
/-! DEFINITION. The statements for the provers. Each is listed in OBLIGATIONS.json with the rules it rests on. -/

open Sys2Proof Sys2Proof.Machine

/-! ### Encoding -/

/-- Decoding an encoded command gives it back, with every operand at every value the encoding admits. -/
def Obligations.DecodeInvertsEncode : Prop :=
  ∀ i : Instr, i.wellFormed = true → decode (encode i) = .ok i

/-- A word that decodes is the word of the command it decodes to, and that command is well formed: no bit of a legal
word is dropped, and no two words mean the same command. -/
def Obligations.DecodedWordReencodes : Prop :=
  ∀ (w : Word32) (i : Instr), decode w = .ok i → i.wellFormed = true ∧ encode i = w

/-- A word is the command of a row of the opcode table exactly when it matches the row's mask and pattern, a word is
legal exactly when it matches some row, and no word matches two rows. -/
def Obligations.RowsOfTheOpcodeTable : Prop :=
  (∀ row ∈ opcodeTable, ∀ w : Word32,
    row.matchesWord w = true ↔ ∃ i, decode w = .ok i ∧ i.fields.op = row.pattern.extractLsb' 24 8) ∧
  (∀ w : Word32, (∃ i, decode w = .ok i) ↔ tableLegal w = true) ∧
  (∀ w : Word32, ∀ row ∈ opcodeTable, ∀ row' ∈ opcodeTable,
    row.matchesWord w = true → row'.matchesWord w = true → row = row')

/-- A word of each format, written out, decodes to its command; one illegal word of each kind is refused. -/
def Obligations.SampleWordsDecode : Prop :=
  decode 0x01123000 = .ok (.fadd 1 2 3) ∧ decode 0x04120000 = .ok (.fneg 1 2) ∧
  decode 0x10100000 = .ok (.pdbl 1 0) ∧ decode 0x11321000 = .ok (.padd 3 2 1) ∧
  decode 0x12030000 = .ok (.pchk 3) ∧ decode 0x18371000 = .ok (.pmul 3 7 1) ∧
  decode 0x19370000 = .ok (.pmulg 3 7) ∧ decode 0x1A070000 = .ok (.schk 7) ∧
  decode 0x20330000 = .ok (.serc 3 3) ∧ decode 0x2A330000 = .ok (.hash160 3 3) ∧
  decode 0x303200FF = .ok (.b58enc 3 2 0xFF) ∧ decode 0x38370000 = .ok (.r2b 3 7) ∧
  decode 0x39730000 = .ok (.b2r 7 3) ∧ decode 0x3A3000AB = .ok (.bapp 3 0xAB) ∧
  decode 0x00000000 = .error (.unassignedOpcode 0x00) ∧ decode 0x01123100 = .error (.nonzeroZ 1) ∧
  decode 0x04121000 = .error .unusedFieldSet ∧ decode 0x39740000 = .error .indexOutOfRange

/-! ### The step, reset, the invariant -/

/-- A step runs the command in `cmdlatch` when the engine's turn comes: with no event waiting (the model's choice,
log 1) or with its turn at the head of the events. A host access or reset at the head takes effect instead; an idle
engine's turn changes nothing. -/
def Obligations.StepRunsTheLatchedCommand : Prop :=
  (∀ (s : State) (i : Instr), s.inputs = [] → s.busy = true → decode s.cmdlatch = .ok i → step s = exec i s) ∧
  (∀ (s : State) (i : Instr) (es : List Event), s.inputs = .engine :: es → s.busy = true →
    decode s.cmdlatch = .ok i → step s = exec i { s with inputs := es }) ∧
  (∀ (s : State) (e : Event) (es : List Event), s.inputs = e :: es →
    step s = State.event { s with inputs := es } e) ∧
  (∀ s : State, s.inputs = [] → s.busy = false → step s = .next s)

/-- A word that matches no row of the opcode table completes with IllegalCommand and changes nothing else. -/
def Obligations.IllegalWordEndsWithSix : Prop :=
  ∀ s : State, tableLegal s.cmdlatch = false → s.busy = true →
    ∃ t, s.engineTurn = .next t ∧ Raised s t 6

/-- Reset: every piece of the spec's state takes its reset value, from any state and also while a command runs, and
the command in progress has no completion. -/
def Obligations.ResetValues : Prop :=
  ∀ s : State, ∃ t, s.event .reset = .next t ∧
    ∀ u, u = t ∨ u = State.reset →
      (∀ i, i < 8 → u.reg i = 0) ∧
      (∀ i, i < 4 → (u.point i).inf = true ∧ (u.point i).x = 0 ∧ (u.point i).y = 0) ∧
      (∀ k, k < 4 → (u.buf k).len = 0 ∧ ∀ a, u.readByte k a = 0) ∧
      u.busy = false ∧ u.err = false ∧ u.haz = false ∧ u.onc = false ∧
      u.errcode = 0 ∧ u.ver = 0 ∧ u.cmdlatch = 0 ∧ u.engineTurn = .next u

/-- The reset state meets the invariant. -/
def Obligations.ResetMeetsInvariant : Prop := State.reset.Inv

/-- Every step from every state that meets the invariant gives a state that meets it: buffer lengths at most BUFCAP
and buffer spaces in canonical form, ERR = 1 exactly when ERRCODE is not 0, ERRCODE at most 7, ERR and ERRCODE clear
while BUSY = 1. -/
def Obligations.StepKeepsInvariant : Prop :=
  ∀ s t : State, s.Inv → step s = .next t → t.Inv

/-- A step answers a next state unless the event at the head is a host access that a platform must not present, and
then it stops by name (the model's names, log 6). -/
def Obligations.StepStopsOnlyAtForbiddenAccess : Prop :=
  (∀ s : State, (∃ t, step s = .next t) ↔ ∀ e es, s.inputs = e :: es → e.allowed = true) ∧
  (∀ (s : State) (off : Nat) (v : Word32), Config.windowSize ≤ off →
    s.event (.read off) = .fault (.outsideWindow off) ∧ s.event (.write off v) = .fault (.outsideWindow off)) ∧
  (∀ (s : State) (off : Nat) (v : Word32), off < Config.windowSize → off % 4 ≠ 0 →
    s.event (.read off) = .refused (.misalignedAccess off) ∧
    s.event (.write off v) = .refused (.misalignedAccess off)) ∧
  (∀ (s : State) (off bits : Nat), s.event (.otherWidth off bits) = .refused (.wrongWidth off bits))

/-- Every command terminates: once the events that wait have been taken, the engine is idle within one step more.
That the engine's turn comes when no event waits is the model's fairness (log 1). -/
def Obligations.EveryCommandTerminates : Prop :=
  ∀ s : State, s.InputsAllowed →
    ∃ t : State, Sys2Proof.core.run (s.inputs.length + 1) s = .next t ∧ t.inputs = [] ∧ t.busy = false

/-! ### All commands -/

/-- Raising an error ends the command with BUSY = 0, ERR = 1 and the error's number and changes nothing else; a
command that ends with ERR = 1 has done exactly that, whatever it computed before. -/
def Obligations.FailedCommandWritesNothing : Prop :=
  (∀ (s : State) (e : CmdError), Raised s (s.raise e) e.number) ∧
  (∀ (i : Instr) (s t : State), exec i s = .next t → t.err = true → ∃ e : CmdError, Raised s t e.number)

/-- Every command completes, with BUSY = 0 and ERR = 1 exactly when ERRCODE is not 0; its ERRCODE is 0 or one of the
numbers the table of R313 gives it, and each of those numbers does occur. -/
def Obligations.ErrorsOfEachCommand : Prop :=
  (∀ (i : Instr) (s : State), ∃ t, exec i s = .next t ∧ t.busy = false ∧ (t.err = true ↔ t.errcode ≠ 0) ∧
    (t.errcode = 0 ∨ t.errcode ∈ possibleErrors i)) ∧
  (∀ i : Instr, i.wellFormed = true → ∀ c ∈ possibleErrors i,
    ∃ s t : State, s.Inv ∧ s.busy = true ∧ exec i s = .next t ∧ t.errcode = c)

/-- What any command leaves unchanged: every register, point register and buffer byte but its destination's; ONC but
for PCHK; VER but for B58DEC; HAZ, `cmdlatch` and what is outside the instance always. -/
def Obligations.CommandsWriteOnlyWhatTheirRuleNames : Prop :=
  ∀ (i : Instr) (s t : State), exec i s = .next t →
    (∀ j, (∀ d, writesReg i = some d → d.toNat ≠ j) → t.reg j = s.reg j) ∧
    (∀ j, (∀ d, writesPoint i = some d → d.toNat ≠ j) → t.point j = s.point j) ∧
    (∀ k, (∀ d, writesBuf i = some d → d.toNat ≠ k) → SameBuf s t k) ∧
    ((∀ ps, i ≠ .pchk ps) → t.onc = s.onc) ∧
    ((∀ bd bs, i ≠ .b58dec bd bs) → t.ver = s.ver) ∧
    SameHostSide s t

/-- Between issue and completion only HAZ changes (and the words the host has received): any host accesses while
BUSY = 1 leave the rest alone, and the command then completes as it would have without them. -/
def Obligations.BusyWindowIsAtomic : Prop :=
  ∀ (s t : State) (es : List Event), s.busy = true → (∀ e ∈ es, e.isHostAccess = true) → s.events es = .next t →
    t = { s with haz := t.haz, responses := t.responses } ∧
    ∃ u, s.engineTurn = .next u ∧ t.engineTurn = .next { u with haz := t.haz, responses := t.responses }

/-! ### Field commands -/

/-- FADD: the exact sum of the operands, each reduced, modulo p. -/
def Obligations.FaddResult : Prop :=
  ∀ (rd rs1 rs2 : Index) (s : State), (Instr.fadd rd rs1 rs2).wellFormed = true →
    (encode (.fadd rd rs1 rs2)).toNat = wordValue 0x01 rd rs1 rs2 0 ∧
    ∃ t, exec (.fadd rd rs1 rs2) s = .next t ∧ OnlyReg s t rd.toNat ∧
      (t.reg rd.toNat).toNat =
        ((s.reg rs1.toNat).toNat % Config.p + (s.reg rs2.toNat).toNat % Config.p) % Config.p

/-- FSUB: the exact difference of the operands, each reduced; its non-negative remainder modulo p. -/
def Obligations.FsubResult : Prop :=
  ∀ (rd rs1 rs2 : Index) (s : State), (Instr.fsub rd rs1 rs2).wellFormed = true →
    (encode (.fsub rd rs1 rs2)).toNat = wordValue 0x02 rd rs1 rs2 0 ∧
    ∃ t, exec (.fsub rd rs1 rs2) s = .next t ∧ OnlyReg s t rd.toNat ∧
      ((t.reg rd.toNat).toNat : Int) =
        (((s.reg rs1.toNat).toNat % Config.p : Nat) - ((s.reg rs2.toNat).toNat % Config.p : Nat) : Int) % Config.p

/-- FMUL: the exact product of the operands, each reduced, modulo p. -/
def Obligations.FmulResult : Prop :=
  ∀ (rd rs1 rs2 : Index) (s : State), (Instr.fmul rd rs1 rs2).wellFormed = true →
    (encode (.fmul rd rs1 rs2)).toNat = wordValue 0x03 rd rs1 rs2 0 ∧
    ∃ t, exec (.fmul rd rs1 rs2) s = .next t ∧ OnlyReg s t rd.toNat ∧
      (t.reg rd.toNat).toNat =
        ((s.reg rs1.toNat).toNat % Config.p) * ((s.reg rs2.toNat).toNat % Config.p) % Config.p

/-- FNEG: 0 for an operand that reads as 0, otherwise p minus the operand. -/
def Obligations.FnegResult : Prop :=
  ∀ (rd rs1 : Index) (s : State), (Instr.fneg rd rs1).wellFormed = true →
    (encode (.fneg rd rs1)).toNat = wordValue 0x04 rd rs1 0 0 ∧
    ∃ t, exec (.fneg rd rs1) s = .next t ∧ OnlyReg s t rd.toNat ∧
      (t.reg rd.toNat).toNat =
        if (s.reg rs1.toNat).toNat % Config.p = 0 then 0 else Config.p - (s.reg rs1.toNat).toNat % Config.p

/-- FINV: the one inverse modulo p; NoInverseError exactly for the raw operands 0 and p. -/
def Obligations.FinvResult : Prop :=
  ∀ (rd rs1 : Index) (s : State), (Instr.finv rd rs1).wellFormed = true →
    (encode (.finv rd rs1)).toNat = wordValue 0x05 rd rs1 0 0 ∧
    ((s.reg rs1.toNat).toNat % Config.p = 0 ↔
      (s.reg rs1.toNat).toNat = 0 ∨ (s.reg rs1.toNat).toNat = Config.p) ∧
    ((s.reg rs1.toNat).toNat % Config.p = 0 → ∃ t, exec (.finv rd rs1) s = .next t ∧ Raised s t 3) ∧
    ((s.reg rs1.toNat).toNat % Config.p ≠ 0 →
      ∃ t, exec (.finv rd rs1) s = .next t ∧ OnlyReg s t rd.toNat ∧
        ∀ v : Nat, v = (t.reg rd.toNat).toNat ↔
          1 ≤ v ∧ v < Config.p ∧ (s.reg rs1.toNat).toNat % Config.p * v % Config.p = 1)

/-- Fermat's inverse and the extended Euclidean algorithm agree for every operand from 1 to p - 1; Euclid's ends
without an inverse for 0. R128 gives both; which of them FINV computes is the model's choice (log 8), and
nothing here rests on it. -/
def Obligations.InverseAlgorithmsAgree : Prop :=
  (∀ a : Nat, 0 < a → a < Config.p →
    fInv a = a ^ (Config.p - 2) % Config.p ∧ fInvEuclid a = some (a ^ (Config.p - 2) % Config.p)) ∧
  fInvEuclid 0 = none

/-! ### Curve and points -/

/-- The field prime and the curve order: their values, and that they are prime, odd and in order. -/
def Obligations.FieldPrimeAndOrderArePrime : Prop :=
  Config.p = 2 ^ 256 - 2 ^ 32 - 977 ∧
  Config.p = 0xFFFFFFFFFFFFFFFFFFFFFFFFFFFFFFFFFFFFFFFFFFFFFFFFFFFFFFFEFFFFFC2F ∧
  Nat.Prime Config.p ∧ Config.p % 2 = 1 ∧
  Config.n = 0xFFFFFFFFFFFFFFFFFFFFFFFFFFFFFFFEBAAEDCE6AF48A03BBFD25E8CD0364141 ∧
  Nat.Prime Config.n ∧ Config.n < Config.p

/-- The base point: its coordinates, the curve equation, the parity of its y, and its order. -/
def Obligations.BasePointFacts : Prop :=
  basePoint = .affine 0x79BE667EF9DCBBAC55A06295CE870B07029BFCDB2DCE28D959F2815B16F81798
    0x483ADA7726A3C4655DA4FBFC0E1108A8FD17B448A68554199C47D08FFB10D4B8 ∧
  Config.gy ^ 2 % Config.p = (Config.gx ^ 3 + 7) % Config.p ∧ Config.gy % 2 = 0 ∧
  multiply Config.n basePoint = .infinity

/-- PDBL: the double of the source point, whose coordinates are reduced first. -/
def Obligations.PdblResult : Prop :=
  ∀ (pd ps1 : Index) (s : State), (Instr.pdbl pd ps1).wellFormed = true →
    (encode (.pdbl pd ps1)).toNat = wordValue 0x10 pd ps1 0 0 ∧
    ∃ t, exec (.pdbl pd ps1) s = .next t ∧ OnlyPoint s t pd.toNat ∧
      if (s.point ps1.toNat).inf = true ∨ (s.point ps1.toNat).y.toNat % Config.p = 0 then
        HoldsPoint (t.point pd.toNat) .infinity
      else
        HoldsDouble ((s.point ps1.toNat).x.toNat % Config.p) ((s.point ps1.toNat).y.toNat % Config.p)
          (t.point pd.toNat)

/-- PADD: the sum of the source points, by the cases of R143 in their order; the two operands `(x1, y1)` and
`(x2, y2)` are the reduced coordinates. -/
def Obligations.PaddResult : Prop :=
  ∀ (pd ps1 ps2 : Index) (s : State) (x1 y1 x2 y2 : Nat), (Instr.padd pd ps1 ps2).wellFormed = true →
    x1 = (s.point ps1.toNat).x.toNat % Config.p → y1 = (s.point ps1.toNat).y.toNat % Config.p →
    x2 = (s.point ps2.toNat).x.toNat % Config.p → y2 = (s.point ps2.toNat).y.toNat % Config.p →
    (encode (.padd pd ps1 ps2)).toNat = wordValue 0x11 pd ps1 ps2 0 ∧
    ∃ t, exec (.padd pd ps1 ps2) s = .next t ∧ OnlyPoint s t pd.toNat ∧
      if (s.point ps1.toNat).inf = true then
        (if (s.point ps2.toNat).inf = true then HoldsPoint (t.point pd.toNat) .infinity
          else HoldsPoint (t.point pd.toNat) (.affine x2 y2))
      else if (s.point ps2.toNat).inf = true then HoldsPoint (t.point pd.toNat) (.affine x1 y1)
      else if x1 = x2 ∧ y1 ≠ y2 then HoldsPoint (t.point pd.toNat) .infinity
      else if x1 = x2 ∧ y1 = 0 then HoldsPoint (t.point pd.toNat) .infinity
      else if x1 = x2 then HoldsDouble x1 y1 (t.point pd.toNat)
      else HoldsChordSum x1 y1 x2 y2 (t.point pd.toNat)

/-- PCHK: ONC becomes 1 exactly for Infinity and for coordinates that satisfy the curve equation; nothing else is
written; no other command writes ONC. -/
def Obligations.PchkResult : Prop :=
  (∀ (ps1 : Index) (s : State), (Instr.pchk ps1).wellFormed = true →
    (encode (.pchk ps1)).toNat = wordValue 0x12 0 ps1 0 0 ∧
    ∃ t, exec (.pchk ps1) s = .next t ∧ Completed t ∧
      (t.onc = true ↔ (s.point ps1.toNat).inf = true ∨
        ((s.point ps1.toNat).y.toNat % Config.p) ^ 2 % Config.p =
          (((s.point ps1.toNat).x.toNat % Config.p) ^ 3 + 7) % Config.p) ∧
      SameRegs s t ∧ SamePoints s t ∧ SameBufs s t ∧ SameHostSide s t ∧ t.ver = s.ver) ∧
  (∀ (i : Instr) (s t : State), (∀ ps1, i ≠ .pchk ps1) → exec i s = .next t → t.onc = s.onc)

/-- The points on the curve form a commutative group under `add`: closure, commutativity, associativity, identity,
inverses; `add(P, P)` is `double(P)`. -/
def Obligations.PointsFormAGroup : Prop :=
  ∀ P Q R : Point, P.Canonical → Q.Canonical → R.Canonical →
    onCurve P = true → onCurve Q = true → onCurve R = true →
    (pointAdd P Q).Canonical ∧ onCurve (pointAdd P Q) = true ∧
    (pointDouble P).Canonical ∧ onCurve (pointDouble P) = true ∧
    pointAdd P Q = pointAdd Q P ∧
    pointAdd (pointAdd P Q) R = pointAdd P (pointAdd Q R) ∧
    pointAdd P .infinity = P ∧ pointAdd .infinity P = P ∧ pointAdd P P = pointDouble P ∧
    ∀ x y, P = .affine x y → pointAdd P (.affine x ((Config.p - y) % Config.p)) = .infinity

/-! ### The scalar multiplier -/

/-- Laws of `multiply`: its values at 0, 1 and 2; running its loop longer than the scalar is long changes nothing;
the additive homomorphism, for every point on the curve and every sum below 2^256; scalars count modulo n for G. -/
def Obligations.AdditiveHomomorphism : Prop :=
  (∀ B : Point, multiply 0 B = .infinity ∧ multiply 1 B = B ∧ multiply 2 B = pointDouble B) ∧
  (∀ (k m : Nat) (B : Point), k < 2 ^ 256 → bitlen k ≤ m → doubleAndAdd k m B = multiply k B) ∧
  (∀ (a b : Nat) (B : Point), B.Canonical → onCurve B = true → a + b < 2 ^ 256 →
    multiply (a + b) B = pointAdd (multiply a B) (multiply b B)) ∧
  (∀ k : Nat, k < 2 ^ 256 → multiply k basePoint = multiply (k % Config.n) basePoint)

/-- The multiples of G by valid scalars are on the curve (R147), never Infinity, and different for different scalars:
G has the prime order n (R9, R10). -/
def Obligations.ValidMultiplesAreDistinctPoints : Prop :=
  ∀ k : Nat, 1 ≤ k → k < Config.n →
    onCurve (multiply k basePoint) = true ∧ multiply k basePoint ≠ .infinity ∧
    ∀ j : Nat, 1 ≤ j → j < Config.n → multiply j basePoint = multiply k basePoint → j = k

/-- PMUL: double-and-add over the bits of the raw scalar, the addition before the doubling. -/
def Obligations.PmulResult : Prop :=
  ∀ (pd rs ps : Index) (s : State), (Instr.pmul pd rs ps).wellFormed = true →
    (encode (.pmul pd rs ps)).toNat = wordValue 0x18 pd rs ps 0 ∧
    ∃ t, exec (.pmul pd rs ps) s = .next t ∧ OnlyPoint s t pd.toNat ∧
      HoldsPoint (t.point pd.toNat)
        (doubleAndAdd (s.reg rs.toNat).toNat (bitlen (s.reg rs.toNat).toNat) (s.pt ps))

/-- PMULG: InvalidScalarError for a raw scalar that is 0 or at least n, otherwise that multiple of G, which is not
Infinity. -/
def Obligations.PmulgResult : Prop :=
  ∀ (pd rs : Index) (s : State) (k : Nat), (Instr.pmulg pd rs).wellFormed = true → k = (s.reg rs.toNat).toNat →
    (encode (.pmulg pd rs)).toNat = wordValue 0x19 pd rs 0 0 ∧
    (k = 0 ∨ Config.n ≤ k → ∃ t, exec (.pmulg pd rs) s = .next t ∧ Raised s t 1) ∧
    (1 ≤ k ∧ k < Config.n → ∃ t, exec (.pmulg pd rs) s = .next t ∧ OnlyPoint s t pd.toNat ∧
      HoldsPoint (t.point pd.toNat) (doubleAndAdd k (bitlen k) basePoint) ∧ (t.point pd.toNat).inf = false)

/-- SCHK: InvalidScalarError for a raw scalar that is 0 or at least n, otherwise it completes; it writes nothing. -/
def Obligations.SchkResult : Prop :=
  ∀ (rs : Index) (s : State) (k : Nat), (Instr.schk rs).wellFormed = true → k = (s.reg rs.toNat).toNat →
    (encode (.schk rs)).toNat = wordValue 0x1A 0 rs 0 0 ∧
    (k = 0 ∨ Config.n ≤ k → ∃ t, exec (.schk rs) s = .next t ∧ Raised s t 1) ∧
    (1 ≤ k ∧ k < Config.n → ∃ t, exec (.schk rs) s = .next t ∧ OnlyCompleted s t)

/-! ### The serialiser -/

/-- SERC: the prefix by the parity of the reduced y, then the reduced x in 32 bytes; PointAtInfinityError for
Infinity. -/
def Obligations.SercResult : Prop :=
  ∀ (bd ps1 : Index) (s : State), (Instr.serc bd ps1).wellFormed = true →
    (encode (.serc bd ps1)).toNat = wordValue 0x20 bd ps1 0 0 ∧
    ((s.point ps1.toNat).inf = true → ∃ t, exec (.serc bd ps1) s = .next t ∧ Raised s t 2) ∧
    ((s.point ps1.toNat).inf = false → ∃ t, exec (.serc bd ps1) s = .next t ∧ OnlyBuf s t bd.toNat ∧
      BufHolds t bd.toNat
        ((if (s.point ps1.toNat).y.toNat % Config.p % 2 = 0 then 0x02 else 0x03) ::
          be ((s.point ps1.toNat).x.toNat % Config.p) 32))

/-- SERU: the prefix 0x04, then the reduced x and y in 32 bytes each; PointAtInfinityError for Infinity. -/
def Obligations.SeruResult : Prop :=
  ∀ (bd ps1 : Index) (s : State), (Instr.seru bd ps1).wellFormed = true →
    (encode (.seru bd ps1)).toNat = wordValue 0x21 bd ps1 0 0 ∧
    ((s.point ps1.toNat).inf = true → ∃ t, exec (.seru bd ps1) s = .next t ∧ Raised s t 2) ∧
    ((s.point ps1.toNat).inf = false → ∃ t, exec (.seru bd ps1) s = .next t ∧ OnlyBuf s t bd.toNat ∧
      BufHolds t bd.toNat
        (0x04 :: (be ((s.point ps1.toNat).x.toNat % Config.p) 32 ++
          be ((s.point ps1.toNat).y.toNat % Config.p) 32)))

/-! ### The hash cores -/

/-- SHA256: the 32-byte digest of the source's contents. -/
def Obligations.Sha256Result : Prop :=
  ∀ (bd bs1 : Index) (s : State), (Instr.sha256 bd bs1).wellFormed = true →
    (encode (.sha256 bd bs1)).toNat = wordValue 0x28 bd bs1 0 0 ∧
    ∃ t, exec (.sha256 bd bs1) s = .next t ∧ OnlyBuf s t bd.toNat ∧
      BufHolds t bd.toNat (sha256 (s.contents bs1)) ∧ (t.buf bd.toNat).len = 32

/-- RMD160: the 20-byte digest of the source's contents. -/
def Obligations.Rmd160Result : Prop :=
  ∀ (bd bs1 : Index) (s : State), (Instr.rmd160 bd bs1).wellFormed = true →
    (encode (.rmd160 bd bs1)).toNat = wordValue 0x29 bd bs1 0 0 ∧
    ∃ t, exec (.rmd160 bd bs1) s = .next t ∧ OnlyBuf s t bd.toNat ∧
      BufHolds t bd.toNat (ripemd160 (s.contents bs1)) ∧ (t.buf bd.toNat).len = 20

/-- HASH160: RIPEMD-160 of SHA-256 of the contents, and the same buffer as SHA256 followed by RMD160 in place. -/
def Obligations.Hash160Result : Prop :=
  ∀ (bd bs1 : Index) (s : State), (Instr.hash160 bd bs1).wellFormed = true →
    (encode (.hash160 bd bs1)).toNat = wordValue 0x2A bd bs1 0 0 ∧
    ∃ t, exec (.hash160 bd bs1) s = .next t ∧ OnlyBuf s t bd.toNat ∧
      BufHolds t bd.toNat (ripemd160 (sha256 (s.contents bs1))) ∧ (t.buf bd.toNat).len = 20 ∧
      ∃ u v, exec (.sha256 bd bs1) s = .next u ∧ exec (.rmd160 bd bd) u = .next v ∧
        v.buf bd.toNat = t.buf bd.toNat

/-- The padding of both hashes: the least number of zero bytes that fills whole blocks of 64, the length in bits at
the end (big-endian for SHA-256, little-endian for RIPEMD-160), and the blocks are the padded message cut up. -/
def Obligations.PaddingMakesWholeBlocks : Prop :=
  ∀ (M : Bytes) (L : Nat), L = M.length →
    (∃ k, shaPad M = M ++ [0x80] ++ zeros k ++ be (8 * L) 8 ∧ rmdPad M = M ++ [0x80] ++ zeros k ++ le (8 * L) 8 ∧
      (L + 1 + k + 8) % 64 = 0 ∧ (∀ j, (L + 1 + j + 8) % 64 = 0 → k ≤ j) ∧
      (k : Int) = (55 - (L : Int)) % 64 ∧ blockCount L = (L + 9 + k) / 64) ∧
    (shaPad M).length = 64 * blockCount L ∧ (rmdPad M).length = 64 * blockCount L ∧
    (pieces 64 (shaPad M) (blockCount L)).flatten = shaPad M ∧
    (pieces 64 (rmdPad M) (blockCount L)).flatten = rmdPad M ∧
    (∀ B ∈ pieces 64 (shaPad M) (blockCount L), B.length = 64) ∧
    (∀ B ∈ pieces 64 (rmdPad M) (blockCount L), B.length = 64) ∧
    (L ≤ 55 → blockCount L = 1) ∧ (56 ≤ L ∧ L ≤ 119 → blockCount L = 2) ∧ (120 ≤ L ∧ L ≤ 128 → blockCount L = 3)

/-- The message schedule of SHA-256: sixteen big-endian words of the block, then the recurrence of R193 with the
functions of R194 written out. -/
def Obligations.ScheduleFollowsTheRecurrence : Prop :=
  ∀ block : Bytes, block.length = 64 →
    (shaSchedule block).length = 64 ∧
    (∀ t, t < 16 → ((shaSchedule block).getD t 0).toNat =
      16777216 * (block.getD (4 * t) 0).toNat + 65536 * (block.getD (4 * t + 1) 0).toNat +
        256 * (block.getD (4 * t + 2) 0).toNat + (block.getD (4 * t + 3) 0).toNat) ∧
    (∀ t, 16 ≤ t → t < 64 → ∀ x y : Word32, x = (shaSchedule block).getD (t - 2) 0 →
      y = (shaSchedule block).getD (t - 15) 0 →
      (shaSchedule block).getD t 0 =
        (x.rotateRight 17 ^^^ x.rotateRight 19 ^^^ (x >>> 10)) + (shaSchedule block).getD (t - 7) 0 +
          (y.rotateRight 7 ^^^ y.rotateRight 18 ^^^ (y >>> 3)) + (shaSchedule block).getD (t - 16) 0)

/-- The digests of "abc" and of the empty message, and the double hash of the empty message. -/
def Obligations.HashKnownAnswers : Prop :=
  sha256 [0x61, 0x62, 0x63] = be 0xBA7816BF8F01CFEA414140DE5DAE2223B00361A396177A9CB410FF61F20015AD 32 ∧
  sha256 [] = be 0xE3B0C44298FC1C149AFBF4C8996FB92427AE41E4649B934CA495991B7852B855 32 ∧
  sha256d [] = be 0x5DF6E0E2761359D30A8275058E299FCC0381534545F55CF43E41983F5D4C9456 32 ∧
  ripemd160 [0x61, 0x62, 0x63] = be 0x8EB208F7E05D987A9B044A8E98C6B087F15A0BFC 20 ∧
  ripemd160 [] = be 0x9C1185A5C5E9FC54612808977EE8F548B2258D31 20

/-! ### The Base-58 codec -/

/-- `encode`: the version byte, the payload and the first four bytes of their double hash; one character of value
zero for each leading zero byte; then the shortest base-58 form of the rest, read as a big-endian number. -/
def Obligations.EncodeIsBase58 : Prop :=
  ∀ (ver : Byte) (payload : Bytes), ∃ (z : Nat) (rest : Bytes) (digs : List Nat),
    (ver :: payload) ++ (sha256 (sha256 (ver :: payload))).take 4 = zeros z ++ rest ∧ rest.head? ≠ some 0 ∧
    (∀ d ∈ digs, d < 58) ∧ digs.head? ≠ some 0 ∧
    Nat.ofDigits 58 digs.reverse = Nat.ofDigits 256 (rest.map fun b => b.toNat).reverse ∧
    b58Encode ver payload = List.replicate z 0x31 ++ digs.map fun d => alphabet.getD d 0

/-- `decode` is the exact inverse of `encode`, fails with InvalidCharacterError exactly when some character is
outside the alphabet, and has one other failure. -/
def Obligations.DecodeIsExactInverse : Prop :=
  (∀ (text : Bytes) (ver : Byte) (payload : Bytes),
    b58Decode text = .ok (ver, payload) ↔ b58Encode ver payload = text) ∧
  (∀ text : Bytes, b58Decode text = .error .invalidCharacter ↔ ∃ c ∈ text, c ∉ alphabet) ∧
  (∀ (text : Bytes) (e : CmdError), b58Decode text = .error e → e = .invalidCharacter ∨ e = .invalidChecksum) ∧
  (∀ (c : Byte) (d : Nat), val58 c = some d ↔ alphabet[d]? = some c)

/-- B58ENC: the text of the version byte and the contents; LengthError exactly when it is longer than 128
characters; which payloads always fit, and the first that do not. -/
def Obligations.B58encResult : Prop :=
  (∀ (bd bs1 : Index) (ver : Byte) (s : State), (Instr.b58enc bd bs1 ver).wellFormed = true →
    (encode (.b58enc bd bs1 ver)).toNat = wordValue 0x30 bd bs1 0 ver ∧
    (128 < (b58Encode ver (s.contents bs1)).length →
      ∃ t, exec (.b58enc bd bs1 ver) s = .next t ∧ Raised s t 7) ∧
    ((b58Encode ver (s.contents bs1)).length ≤ 128 →
      ∃ t, exec (.b58enc bd bs1 ver) s = .next t ∧ OnlyBuf s t bd.toNat ∧
        BufHolds t bd.toNat (b58Encode ver (s.contents bs1)))) ∧
  (∀ (ver : Byte) (payload : Bytes), payload.length ≤ 88 → (b58Encode ver payload).length ≤ 128) ∧
  (b58Encode 0xFF (List.replicate 89 0xFF)).length = 129 ∧
  (∀ k, k ≤ 121 → (b58Encode 0x00 (zeros k)).length ≤ 128) ∧
  (b58Encode 0x00 (zeros 122)).length = 129

/-- B58DEC: VER and the payload on success, which is never longer than the text; the two errors write nothing. -/
def Obligations.B58decResult : Prop :=
  ∀ (bd bs1 : Index) (s : State), (Instr.b58dec bd bs1).wellFormed = true →
    (encode (.b58dec bd bs1)).toNat = wordValue 0x31 bd bs1 0 0 ∧
    (∀ (ver : Byte) (payload : Bytes), b58Decode (s.contents bs1) = .ok (ver, payload) →
      ∃ t, exec (.b58dec bd bs1) s = .next t ∧ Completed t ∧ t.ver = ver ∧ BufHolds t bd.toNat payload ∧
        payload.length ≤ (s.buf bs1.toNat).len ∧
        SameRegs s t ∧ SamePoints s t ∧ (∀ k, k ≠ bd.toNat → SameBuf s t k) ∧ SameHostSide s t ∧ t.onc = s.onc) ∧
    (b58Decode (s.contents bs1) = .error .invalidCharacter →
      ∃ t, exec (.b58dec bd bs1) s = .next t ∧ Raised s t 5) ∧
    (b58Decode (s.contents bs1) = .error .invalidChecksum →
      ∃ t, exec (.b58dec bd bs1) s = .next t ∧ Raised s t 4)

/-! ### Moves -/

/-- R2B: the raw register as 32 bytes, byte 0 its bits 255:248; every later data byte 0. -/
def Obligations.R2bResult : Prop :=
  ∀ (bd rs : Index) (s : State), (Instr.r2b bd rs).wellFormed = true →
    (encode (.r2b bd rs)).toNat = wordValue 0x38 bd rs 0 0 ∧
    ∃ t, exec (.r2b bd rs) s = .next t ∧ OnlyBuf s t bd.toNat ∧ (t.buf bd.toNat).len = 32 ∧
      (∀ j, j < 32 → t.readByte bd.toNat j = (s.reg rs.toNat).extractLsb' (8 * (31 - j)) 8) ∧
      (∀ j, 32 ≤ j → t.readByte bd.toNat j = 0)

/-- B2R: the contents as a big-endian number; LengthError for more than 32 bytes. -/
def Obligations.B2rResult : Prop :=
  ∀ (rd bs1 : Index) (s : State) (L : Nat), (Instr.b2r rd bs1).wellFormed = true → L = (s.buf bs1.toNat).len →
    (encode (.b2r rd bs1)).toNat = wordValue 0x39 rd bs1 0 0 ∧
    (32 < L → ∃ t, exec (.b2r rd bs1) s = .next t ∧ Raised s t 7) ∧
    (L ≤ 32 → ∃ t, exec (.b2r rd bs1) s = .next t ∧ OnlyReg s t rd.toNat ∧
      (t.reg rd.toNat).toNat =
        ((List.range L).map fun i => (s.readByte bs1.toNat i).toNat * 256 ^ (L - 1 - i)).sum)

/-- BAPP: the byte goes to index `len`, `len` grows by 1, every other data byte stays; LengthError for a full
buffer. -/
def Obligations.BappResult : Prop :=
  ∀ (bd : Index) (imm : Byte) (s : State) (L : Nat), (Instr.bapp bd imm).wellFormed = true →
    (s.buf bd.toNat).Ok → L = (s.buf bd.toNat).len →
    (encode (.bapp bd imm)).toNat = wordValue 0x3A bd 0 0 imm ∧
    (L = 128 → ∃ t, exec (.bapp bd imm) s = .next t ∧ Raised s t 7) ∧
    (L < 128 → ∃ t, exec (.bapp bd imm) s = .next t ∧ OnlyBuf s t bd.toNat ∧ (t.buf bd.toNat).len = L + 1 ∧
      ∀ a, t.readByte bd.toNat a = if a = L then imm else s.readByte bd.toNat a)

/-- R2B and then B2R copies a register, raw, for every value; the byte conversions undo each other. -/
def Obligations.RegisterBufferRoundTrip : Prop :=
  (∀ (bd rs rd : Index) (s : State), (Instr.r2b bd rs).wellFormed = true → (Instr.b2r rd bd).wellFormed = true →
    ∃ t u, exec (.r2b bd rs) s = .next t ∧ exec (.b2r rd bd) t = .next u ∧ u.reg rd.toNat = s.reg rs.toNat) ∧
  (∀ v k : Nat, v < 256 ^ k → fromBE (be v k) = v) ∧
  (∀ str : Bytes, be (fromBE str) str.length = str) ∧
  (∀ v : Nat, fromBE (minBE v) = v ∧ (minBE v).head? ≠ some 0)

/-! ### The host port -/

/-- A write to CMD: the issue of any word while BUSY = 0; a refused access while BUSY = 1. A read of CMD returns 0. -/
def Obligations.IssueOfACommand : Prop :=
  ∀ (s : State) (w : Word32),
    (s.busy = false → s.eventWrite 0x004 w =
      .next { s with cmdlatch := w, busy := true, err := false, errcode := 0 }) ∧
    (s.busy = true → WriteRefused s 0x004 w) ∧ ReadServed s 0x004 0

/-- STATUS, ERRCODE and VER on the host port: what they read as, that a STATUS write with bit 2 set clears HAZ and
nothing else, and which of these accesses are refused while BUSY = 1. -/
def Obligations.StatusErrcodeAndVer : Prop :=
  ∀ (s : State) (v : Word32),
    ReadServed s 0x008
      (BitVec.ofNat 32 ((if s.busy then 1 else 0) + (if s.err then 2 else 0) + (if s.haz then 4 else 0) +
        (if s.onc then 8 else 0))) ∧
    (s.busy = false → s.eventWrite 0x008 v = .next (if v.getLsbD 2 = true then { s with haz := false } else s) ∧
      WriteIgnored s 0x00C v ∧ WriteIgnored s 0x010 v ∧ WriteIgnored s 0x000 v ∧
      ReadServed s 0x00C (BitVec.ofNat 32 s.errcode.toNat) ∧ ReadServed s 0x010 (BitVec.ofNat 32 s.ver.toNat)) ∧
    (s.busy = true → WriteRefused s 0x008 v ∧ WriteRefused s 0x00C v ∧ WriteRefused s 0x010 v ∧
      WriteRefused s 0x000 v ∧ ReadServed s 0x00C 0 ∧ ReadRefused s 0x010)

/-- The window of the registers: a read returns the 32 bits, a write replaces them and leaves every other bit of the
state; both are refused while BUSY = 1. -/
def Obligations.RegisterWindow : Prop :=
  ∀ (s : State) (i j off : Nat) (v : Word32), i < 8 → j < 8 → off = 0x100 + 0x20 * i + 4 * j →
    (s.busy = false →
      ReadServed s off ((s.reg i).extractLsb' (32 * j) 32) ∧
      ∃ t, s.eventWrite off v = .next t ∧
        (∀ k, k < 8 → (t.reg i).extractLsb' (32 * k) 32 =
          if k = j then v else (s.reg i).extractLsb' (32 * k) 32) ∧
        (∀ m, m ≠ i → t.reg m = s.reg m) ∧ SamePoints s t ∧ SameBufs s t ∧ SameControl s t ∧ SameLife s t) ∧
    (s.busy = true → ReadRefused s off ∧ WriteRefused s off v)

/-- The windows of the point registers: `x` and `y` by words, `inf` by bit 0, the three fields independent; all
refused while BUSY = 1. -/
def Obligations.PointWindow : Prop :=
  ∀ (s : State) (i j : Nat) (v : Word32), i < 4 → j < 8 →
    (s.busy = false →
      ReadServed s (0x200 + 0x80 * i + 4 * j) ((s.point i).x.extractLsb' (32 * j) 32) ∧
      ReadServed s (0x220 + 0x80 * i + 4 * j) ((s.point i).y.extractLsb' (32 * j) 32) ∧
      ReadServed s (0x240 + 0x80 * i) (if (s.point i).inf then 1 else 0) ∧
      (∃ t, s.eventWrite (0x200 + 0x80 * i + 4 * j) v = .next t ∧
        (∀ k, k < 8 → (t.point i).x.extractLsb' (32 * k) 32 =
          if k = j then v else (s.point i).x.extractLsb' (32 * k) 32) ∧
        (t.point i).y = (s.point i).y ∧ (t.point i).inf = (s.point i).inf ∧ (∀ m, m ≠ i → t.point m = s.point m) ∧
        SameRegs s t ∧ SameBufs s t ∧ SameControl s t ∧ SameLife s t) ∧
      (∃ t, s.eventWrite (0x220 + 0x80 * i + 4 * j) v = .next t ∧
        (∀ k, k < 8 → (t.point i).y.extractLsb' (32 * k) 32 =
          if k = j then v else (s.point i).y.extractLsb' (32 * k) 32) ∧
        (t.point i).x = (s.point i).x ∧ (t.point i).inf = (s.point i).inf ∧ (∀ m, m ≠ i → t.point m = s.point m) ∧
        SameRegs s t ∧ SameBufs s t ∧ SameControl s t ∧ SameLife s t) ∧
      (∃ t, s.eventWrite (0x240 + 0x80 * i) v = .next t ∧ (t.point i).inf = v.getLsbD 0 ∧
        (t.point i).x = (s.point i).x ∧ (t.point i).y = (s.point i).y ∧ (∀ m, m ≠ i → t.point m = s.point m) ∧
        SameRegs s t ∧ SameBufs s t ∧ SameControl s t ∧ SameLife s t)) ∧
    (s.busy = true → ∀ off, off = 0x200 + 0x80 * i + 4 * j ∨ off = 0x220 + 0x80 * i + 4 * j ∨
      off = 0x240 + 0x80 * i → ReadRefused s off ∧ WriteRefused s off v)

/-- BLEN and the data window of a buffer within its capacity: a BLEN write of at most 128 sets the length and no
data byte, a larger one is refused; a data word holds four bytes, the lowest address in the lowest bits, and a data
write sets those four bytes and not the length; all refused while BUSY = 1. -/
def Obligations.BufferWindow : Prop :=
  ∀ (s : State) (k w : Nat) (v : Word32), k < 4 → w < 32 → (s.buf k).Ok →
    (s.busy = false →
      ReadServed s (0x020 + 4 * k) (BitVec.ofNat 32 (s.buf k).len) ∧
      ReadServed s (0x400 + 0x80 * k + 4 * w)
        (BitVec.ofNat 32 ((s.readByte k (4 * w)).toNat + 256 * (s.readByte k (4 * w + 1)).toNat +
          65536 * (s.readByte k (4 * w + 2)).toNat + 16777216 * (s.readByte k (4 * w + 3)).toNat)) ∧
      (v.toNat ≤ 128 → ∃ t, s.eventWrite (0x020 + 4 * k) v = .next t ∧ (t.buf k).len = v.toNat ∧
        (∀ a, t.readByte k a = s.readByte k a) ∧ (∀ m, m ≠ k → SameBuf s t m) ∧
        SameRegs s t ∧ SamePoints s t ∧ SameControl s t ∧ SameLife s t) ∧
      (128 < v.toNat → WriteRefused s (0x020 + 4 * k) v) ∧
      (∃ t, s.eventWrite (0x400 + 0x80 * k + 4 * w) v = .next t ∧ (t.buf k).len = (s.buf k).len ∧
        (∀ b, b < 4 → t.readByte k (4 * w + b) = v.extractLsb' (8 * b) 8) ∧
        (∀ a, a < 4 * w ∨ 4 * w + 4 ≤ a → t.readByte k a = s.readByte k a) ∧ (∀ m, m ≠ k → SameBuf s t m) ∧
        SameRegs s t ∧ SamePoints s t ∧ SameControl s t ∧ SameLife s t)) ∧
    (s.busy = true → ReadRefused s (0x020 + 4 * k) ∧ WriteRefused s (0x020 + 4 * k) v ∧
      ReadRefused s (0x400 + 0x80 * k + 4 * w) ∧ WriteRefused s (0x400 + 0x80 * k + 4 * w) v)

/-- Refused accesses. While BUSY = 1 every write but to a reserved offset is refused, and every read of VER, BLEN, R,
PX, PY, PINF and BDATA and no other. While BUSY = 0 the only refused access is a BLEN write above 128. HAZ, once 1,
stays 1 until the host writes STATUS with bit 2 set while BUSY = 0, or reset. -/
def Obligations.RefusedAccesses : Prop :=
  (∀ (s : State) (off : Nat) (v : Word32), off < 0x800 → off % 4 = 0 → s.busy = true →
    (if reservedOffset off = true then WriteIgnored s off v else WriteRefused s off v) ∧
    (if dataOffset off = true then ReadRefused s off else ∃ w, ReadServed s off w)) ∧
  (∀ (s t : State) (off : Nat), s.busy = false → s.eventRead off = .next t → ∃ w, ReadServed s off w) ∧
  (∀ (s t : State) (off : Nat) (v : Word32), s.busy = false → s.haz = false → s.eventWrite off v = .next t →
    (t.haz = true ↔ 0x020 ≤ off ∧ off ≤ 0x02C ∧ 128 < v.toNat)) ∧
  (∀ (s t : State) (e : Event), s.haz = true → s.event e = .next t → t.haz = false →
    e = .reset ∨ ∃ v : Word32, e = .write 0x008 v ∧ v.getLsbD 2 = true ∧ s.busy = false)

/-- The words that never change and the offsets that hold nothing: ID and the constant window read their constants,
busy or not; a reserved offset reads 0 and ignores writes, busy or not; ID and the constant window ignore writes
while BUSY = 0. -/
def Obligations.ConstantsAndReservedOffsets : Prop :=
  ∀ (s : State) (v : Word32),
    ReadServed s 0x000 0x4B310001 ∧
    (∀ j, j < 8 →
      ReadServed s (0x600 + 4 * j) (BitVec.ofNat 32 (Config.p / 2 ^ (32 * j))) ∧
      ReadServed s (0x620 + 4 * j) (BitVec.ofNat 32 (Config.n / 2 ^ (32 * j))) ∧
      ReadServed s (0x640 + 4 * j) (BitVec.ofNat 32 (Config.gx / 2 ^ (32 * j))) ∧
      ReadServed s (0x660 + 4 * j) (BitVec.ofNat 32 (Config.gy / 2 ^ (32 * j)))) ∧
    ReadServed s 0x680 7 ∧
    (∀ off, off < 0x800 → off % 4 = 0 → reservedOffset off = true →
      ReadServed s off 0 ∧ WriteIgnored s off v) ∧
    (s.busy = false → WriteIgnored s 0x000 v ∧
      ∀ off, 0x600 ≤ off → off ≤ 0x680 → off % 4 = 0 → WriteIgnored s off v)

/-! ### Several instances, programs, the Oracle -/

/-- Instances share nothing: after any interleaving of the events of a platform's instances, each is what it would be
had it run alone. -/
def Obligations.InstancesAreIndependent : Prop :=
  ∀ (nCores c : Nat) (es : List (Nat × Event)), c < nCores →
    (Platform.run (Platform.reset nCores) es)[c]? = some (State.reset.events (eventsOf c es))

/-- The address pipeline. An invalid scalar stops it with InvalidScalarError, and registers, point registers and
buffers are unchanged; a valid one ends with the point, the 20-byte digest and the Base58Check text in their places,
at most 34 characters that start with '1', 33 or 34 of them when the digest does not start with a zero byte.
The polling of STATUS is abstracted away, as R272 allows (log 13). -/
def Obligations.DeriveAddressProgram : Prop :=
  ∀ (compressed : Bool) (bd rs pt bt : Index) (s : State) (k : Nat),
    bufOk bd = true → regOk rs = true → ptOk pt = true → bufOk bt = true → k = (s.reg rs.toNat).toNat →
    s.busy = false →
    (k = 0 ∨ Config.n ≤ k → ∃ t, runProgram (Pseudo.deriveAddr compressed bd rs pt bt).program s = .next (t, 1) ∧
      t.busy = false ∧ t.err = true ∧ t.errcode = 1 ∧ SameRegs s t ∧ SamePoints s t ∧ SameBufs s t) ∧
    (1 ≤ k ∧ k < Config.n → ∃ t x y key digest text,
      runProgram (Pseudo.deriveAddr compressed bd rs pt bt).program s = .next (t, 0) ∧ Completed t ∧
      doubleAndAdd k (bitlen k) basePoint = .affine x y ∧
      key = (if compressed then (if y % 2 = 0 then 0x02 else 0x03) :: be x 32 else 0x04 :: (be x 32 ++ be y 32)) ∧
      digest = ripemd160 (sha256 key) ∧ text = b58Encode 0x00 digest ∧
      HoldsPoint (t.point pt.toNat) (.affine x y) ∧ (bt ≠ bd → BufHolds t bt.toNat digest) ∧
      BufHolds t bd.toNat text ∧ text.length ≤ 34 ∧ text.head? = some 0x31 ∧
      (digest.head? ≠ some 0 → 33 ≤ text.length) ∧
      SameRegs s t ∧ (∀ i, i ≠ pt.toNat → t.point i = s.point i) ∧
      (∀ b, b ≠ bd.toNat → b ≠ bt.toNat → SameBuf s t b) ∧
      t.haz = s.haz ∧ t.onc = s.onc ∧ t.ver = s.ver)

/-- The WIF pipeline. An invalid scalar stops it with InvalidScalarError; a valid one ends with the text of version
0x80, the scalar in 32 bytes and, compressed, the marker: 52 characters that start with 'K' or 'L', or 51 that start
with '5'. No point register is touched. The polling of STATUS is abstracted away, as R272 allows (log 13). -/
def Obligations.DeriveWifProgram : Prop :=
  ∀ (compressed : Bool) (bd rs bt : Index) (s : State) (k : Nat),
    bufOk bd = true → regOk rs = true → bufOk bt = true → k = (s.reg rs.toNat).toNat → s.busy = false →
    (k = 0 ∨ Config.n ≤ k → ∃ t, runProgram (Pseudo.deriveWif compressed bd rs bt).program s = .next (t, 1) ∧
      t.busy = false ∧ t.err = true ∧ t.errcode = 1 ∧ SameRegs s t ∧ SamePoints s t ∧ SameBufs s t) ∧
    (1 ≤ k ∧ k < Config.n → ∃ t text,
      runProgram (Pseudo.deriveWif compressed bd rs bt).program s = .next (t, 0) ∧ Completed t ∧
      text = b58Encode 0x80 (if compressed then be k 32 ++ [0x01] else be k 32) ∧ BufHolds t bd.toNat text ∧
      (if compressed then text.length = 52 ∧ (text.head? = some 0x4B ∨ text.head? = some 0x4C)
        else text.length = 51 ∧ text.head? = some 0x35) ∧
      SameRegs s t ∧ SamePoints s t ∧ (∀ b, b ≠ bd.toNat → b ≠ bt.toNat → SameBuf s t b))

/-- `matchesTarget`: InvalidScalarError for a candidate outside `[1, n)`, of any size; otherwise whether the target
is one of the two addresses of the candidate. It holds from every state because the procedure first waits for the
engine, with the polling of STATUS abstracted away, as R272 allows (log 13). -/
def Obligations.MatchesTargetAnswer : Prop :=
  ∀ (k : Nat) (target : Bytes) (s : State),
    (k = 0 ∨ Config.n ≤ k → ∃ t, matchesTarget k target s = .next (t, .error 1)) ∧
    (1 ≤ k ∧ k < Config.n → ∃ t x y b, matchesTarget k target s = .next (t, .ok b) ∧
      doubleAndAdd k (bitlen k) basePoint = .affine x y ∧
      (b = true ↔
        target = b58Encode 0x00 (ripemd160 (sha256 ((if y % 2 = 0 then 0x02 else 0x03) :: be x 32))) ∨
        target = b58Encode 0x00 (ripemd160 (sha256 (0x04 :: (be x 32 ++ be y 32))))))

/-- `inBitRange(k, n)` says that k is n bits long, for n at least 1; `sharedPrefix` is the length of the longest
shared leading part. -/
def Obligations.BitRangeAndSharedPrefix : Prop :=
  (∀ k n : Nat, 1 ≤ n → ∃ b, inBitRange k n = some b ∧ (b = true ↔ 2 ^ (n - 1) ≤ k ∧ k < 2 ^ n) ∧
    (b = true ↔ bitlen k = n)) ∧
  (∀ (a t : Bytes) (m : Nat), m = sharedPrefix a t ↔
    (m ≤ a.length ∧ m ≤ t.length ∧ a.take m = t.take m) ∧
    ∀ m', m' ≤ a.length → m' ≤ t.length → a.take m' = t.take m' → m' ≤ m)
end

