-- ==== Sys2Proof/Laws/State.lean ====
section
/-! SUPPORT. What each record update of `State` does to each field, and what the register accessors read after a
write: later proofs cite these and unfold no update. -/

namespace Sys2Proof.Machine

variable (s : State)

/-! ### Fields after an update -/

@[simp] theorem State.issue_regs (w : Word32) : (s.issue w).regs = s.regs := rfl
@[simp] theorem State.issue_points (w : Word32) : (s.issue w).points = s.points := rfl
@[simp] theorem State.issue_bufs (w : Word32) : (s.issue w).bufs = s.bufs := rfl
@[simp] theorem State.issue_busy (w : Word32) : (s.issue w).busy = true := rfl
@[simp] theorem State.issue_err (w : Word32) : (s.issue w).err = false := rfl
@[simp] theorem State.issue_haz (w : Word32) : (s.issue w).haz = s.haz := rfl
@[simp] theorem State.issue_onc (w : Word32) : (s.issue w).onc = s.onc := rfl
@[simp] theorem State.issue_errcode (w : Word32) : (s.issue w).errcode = 0 := rfl
@[simp] theorem State.issue_ver (w : Word32) : (s.issue w).ver = s.ver := rfl
@[simp] theorem State.issue_cmdlatch (w : Word32) : (s.issue w).cmdlatch = w := rfl
@[simp] theorem State.issue_inputs (w : Word32) : (s.issue w).inputs = s.inputs := rfl
@[simp] theorem State.issue_responses (w : Word32) : (s.issue w).responses = s.responses := rfl

@[simp] theorem State.finish_regs : s.finish.regs = s.regs := rfl
@[simp] theorem State.finish_points : s.finish.points = s.points := rfl
@[simp] theorem State.finish_bufs : s.finish.bufs = s.bufs := rfl
@[simp] theorem State.finish_busy : s.finish.busy = false := rfl
@[simp] theorem State.finish_err : s.finish.err = false := rfl
@[simp] theorem State.finish_haz : s.finish.haz = s.haz := rfl
@[simp] theorem State.finish_onc : s.finish.onc = s.onc := rfl
@[simp] theorem State.finish_errcode : s.finish.errcode = 0 := rfl
@[simp] theorem State.finish_ver : s.finish.ver = s.ver := rfl
@[simp] theorem State.finish_cmdlatch : s.finish.cmdlatch = s.cmdlatch := rfl
@[simp] theorem State.finish_inputs : s.finish.inputs = s.inputs := rfl
@[simp] theorem State.finish_responses : s.finish.responses = s.responses := rfl

@[simp] theorem State.raise_regs (e : CmdError) : (s.raise e).regs = s.regs := rfl
@[simp] theorem State.raise_points (e : CmdError) : (s.raise e).points = s.points := rfl
@[simp] theorem State.raise_bufs (e : CmdError) : (s.raise e).bufs = s.bufs := rfl
@[simp] theorem State.raise_busy (e : CmdError) : (s.raise e).busy = false := rfl
@[simp] theorem State.raise_err (e : CmdError) : (s.raise e).err = true := rfl
@[simp] theorem State.raise_haz (e : CmdError) : (s.raise e).haz = s.haz := rfl
@[simp] theorem State.raise_onc (e : CmdError) : (s.raise e).onc = s.onc := rfl
@[simp] theorem State.raise_errcode (e : CmdError) : (s.raise e).errcode = e.number := rfl
@[simp] theorem State.raise_ver (e : CmdError) : (s.raise e).ver = s.ver := rfl
@[simp] theorem State.raise_cmdlatch (e : CmdError) : (s.raise e).cmdlatch = s.cmdlatch := rfl
@[simp] theorem State.raise_inputs (e : CmdError) : (s.raise e).inputs = s.inputs := rfl
@[simp] theorem State.raise_responses (e : CmdError) : (s.raise e).responses = s.responses := rfl

@[simp] theorem State.setReg_regs (i : Nat) (v : Word256) : (s.setReg i v).regs = s.regs.setIfInBounds i v := rfl
@[simp] theorem State.setReg_points (i : Nat) (v : Word256) : (s.setReg i v).points = s.points := rfl
@[simp] theorem State.setReg_bufs (i : Nat) (v : Word256) : (s.setReg i v).bufs = s.bufs := rfl
@[simp] theorem State.setReg_busy (i : Nat) (v : Word256) : (s.setReg i v).busy = s.busy := rfl
@[simp] theorem State.setReg_err (i : Nat) (v : Word256) : (s.setReg i v).err = s.err := rfl
@[simp] theorem State.setReg_haz (i : Nat) (v : Word256) : (s.setReg i v).haz = s.haz := rfl
@[simp] theorem State.setReg_onc (i : Nat) (v : Word256) : (s.setReg i v).onc = s.onc := rfl
@[simp] theorem State.setReg_errcode (i : Nat) (v : Word256) : (s.setReg i v).errcode = s.errcode := rfl
@[simp] theorem State.setReg_ver (i : Nat) (v : Word256) : (s.setReg i v).ver = s.ver := rfl
@[simp] theorem State.setReg_cmdlatch (i : Nat) (v : Word256) : (s.setReg i v).cmdlatch = s.cmdlatch := rfl
@[simp] theorem State.setReg_inputs (i : Nat) (v : Word256) : (s.setReg i v).inputs = s.inputs := rfl
@[simp] theorem State.setReg_responses (i : Nat) (v : Word256) : (s.setReg i v).responses = s.responses := rfl

@[simp] theorem State.setPoint_regs (i : Nat) (v : PointReg) : (s.setPoint i v).regs = s.regs := rfl
@[simp] theorem State.setPoint_points (i : Nat) (v : PointReg) : (s.setPoint i v).points = s.points.setIfInBounds i v := rfl
@[simp] theorem State.setPoint_bufs (i : Nat) (v : PointReg) : (s.setPoint i v).bufs = s.bufs := rfl
@[simp] theorem State.setPoint_busy (i : Nat) (v : PointReg) : (s.setPoint i v).busy = s.busy := rfl
@[simp] theorem State.setPoint_err (i : Nat) (v : PointReg) : (s.setPoint i v).err = s.err := rfl
@[simp] theorem State.setPoint_haz (i : Nat) (v : PointReg) : (s.setPoint i v).haz = s.haz := rfl
@[simp] theorem State.setPoint_onc (i : Nat) (v : PointReg) : (s.setPoint i v).onc = s.onc := rfl
@[simp] theorem State.setPoint_errcode (i : Nat) (v : PointReg) : (s.setPoint i v).errcode = s.errcode := rfl
@[simp] theorem State.setPoint_ver (i : Nat) (v : PointReg) : (s.setPoint i v).ver = s.ver := rfl
@[simp] theorem State.setPoint_cmdlatch (i : Nat) (v : PointReg) : (s.setPoint i v).cmdlatch = s.cmdlatch := rfl
@[simp] theorem State.setPoint_inputs (i : Nat) (v : PointReg) : (s.setPoint i v).inputs = s.inputs := rfl
@[simp] theorem State.setPoint_responses (i : Nat) (v : PointReg) : (s.setPoint i v).responses = s.responses := rfl

@[simp] theorem State.setBuf_regs (k : Nat) (b : Buffer) : (s.setBuf k b).regs = s.regs := rfl
@[simp] theorem State.setBuf_points (k : Nat) (b : Buffer) : (s.setBuf k b).points = s.points := rfl
@[simp] theorem State.setBuf_bufs (k : Nat) (b : Buffer) : (s.setBuf k b).bufs = s.bufs.setIfInBounds k b := rfl
@[simp] theorem State.setBuf_busy (k : Nat) (b : Buffer) : (s.setBuf k b).busy = s.busy := rfl
@[simp] theorem State.setBuf_err (k : Nat) (b : Buffer) : (s.setBuf k b).err = s.err := rfl
@[simp] theorem State.setBuf_haz (k : Nat) (b : Buffer) : (s.setBuf k b).haz = s.haz := rfl
@[simp] theorem State.setBuf_onc (k : Nat) (b : Buffer) : (s.setBuf k b).onc = s.onc := rfl
@[simp] theorem State.setBuf_errcode (k : Nat) (b : Buffer) : (s.setBuf k b).errcode = s.errcode := rfl
@[simp] theorem State.setBuf_ver (k : Nat) (b : Buffer) : (s.setBuf k b).ver = s.ver := rfl
@[simp] theorem State.setBuf_cmdlatch (k : Nat) (b : Buffer) : (s.setBuf k b).cmdlatch = s.cmdlatch := rfl
@[simp] theorem State.setBuf_inputs (k : Nat) (b : Buffer) : (s.setBuf k b).inputs = s.inputs := rfl
@[simp] theorem State.setBuf_responses (k : Nat) (b : Buffer) : (s.setBuf k b).responses = s.responses := rfl

@[simp] theorem State.setHaz_regs : s.setHaz.regs = s.regs := rfl
@[simp] theorem State.setHaz_points : s.setHaz.points = s.points := rfl
@[simp] theorem State.setHaz_bufs : s.setHaz.bufs = s.bufs := rfl
@[simp] theorem State.setHaz_busy : s.setHaz.busy = s.busy := rfl
@[simp] theorem State.setHaz_err : s.setHaz.err = s.err := rfl
@[simp] theorem State.setHaz_haz : s.setHaz.haz = true := rfl
@[simp] theorem State.setHaz_onc : s.setHaz.onc = s.onc := rfl
@[simp] theorem State.setHaz_errcode : s.setHaz.errcode = s.errcode := rfl
@[simp] theorem State.setHaz_ver : s.setHaz.ver = s.ver := rfl
@[simp] theorem State.setHaz_cmdlatch : s.setHaz.cmdlatch = s.cmdlatch := rfl
@[simp] theorem State.setHaz_inputs : s.setHaz.inputs = s.inputs := rfl
@[simp] theorem State.setHaz_responses : s.setHaz.responses = s.responses := rfl

@[simp] theorem State.setOnc_regs (b : Bool) : (s.setOnc b).regs = s.regs := rfl
@[simp] theorem State.setOnc_points (b : Bool) : (s.setOnc b).points = s.points := rfl
@[simp] theorem State.setOnc_bufs (b : Bool) : (s.setOnc b).bufs = s.bufs := rfl
@[simp] theorem State.setOnc_busy (b : Bool) : (s.setOnc b).busy = s.busy := rfl
@[simp] theorem State.setOnc_err (b : Bool) : (s.setOnc b).err = s.err := rfl
@[simp] theorem State.setOnc_haz (b : Bool) : (s.setOnc b).haz = s.haz := rfl
@[simp] theorem State.setOnc_onc (b : Bool) : (s.setOnc b).onc = b := rfl
@[simp] theorem State.setOnc_errcode (b : Bool) : (s.setOnc b).errcode = s.errcode := rfl
@[simp] theorem State.setOnc_ver (b : Bool) : (s.setOnc b).ver = s.ver := rfl
@[simp] theorem State.setOnc_cmdlatch (b : Bool) : (s.setOnc b).cmdlatch = s.cmdlatch := rfl
@[simp] theorem State.setOnc_inputs (b : Bool) : (s.setOnc b).inputs = s.inputs := rfl
@[simp] theorem State.setOnc_responses (b : Bool) : (s.setOnc b).responses = s.responses := rfl

@[simp] theorem State.setVer_regs (v : Byte) : (s.setVer v).regs = s.regs := rfl
@[simp] theorem State.setVer_points (v : Byte) : (s.setVer v).points = s.points := rfl
@[simp] theorem State.setVer_bufs (v : Byte) : (s.setVer v).bufs = s.bufs := rfl
@[simp] theorem State.setVer_busy (v : Byte) : (s.setVer v).busy = s.busy := rfl
@[simp] theorem State.setVer_err (v : Byte) : (s.setVer v).err = s.err := rfl
@[simp] theorem State.setVer_haz (v : Byte) : (s.setVer v).haz = s.haz := rfl
@[simp] theorem State.setVer_onc (v : Byte) : (s.setVer v).onc = s.onc := rfl
@[simp] theorem State.setVer_errcode (v : Byte) : (s.setVer v).errcode = s.errcode := rfl
@[simp] theorem State.setVer_ver (v : Byte) : (s.setVer v).ver = v := rfl
@[simp] theorem State.setVer_cmdlatch (v : Byte) : (s.setVer v).cmdlatch = s.cmdlatch := rfl
@[simp] theorem State.setVer_inputs (v : Byte) : (s.setVer v).inputs = s.inputs := rfl
@[simp] theorem State.setVer_responses (v : Byte) : (s.setVer v).responses = s.responses := rfl

@[simp] theorem State.respond_regs (v : Word32) : (s.respond v).regs = s.regs := rfl
@[simp] theorem State.respond_points (v : Word32) : (s.respond v).points = s.points := rfl
@[simp] theorem State.respond_bufs (v : Word32) : (s.respond v).bufs = s.bufs := rfl
@[simp] theorem State.respond_busy (v : Word32) : (s.respond v).busy = s.busy := rfl
@[simp] theorem State.respond_err (v : Word32) : (s.respond v).err = s.err := rfl
@[simp] theorem State.respond_haz (v : Word32) : (s.respond v).haz = s.haz := rfl
@[simp] theorem State.respond_onc (v : Word32) : (s.respond v).onc = s.onc := rfl
@[simp] theorem State.respond_errcode (v : Word32) : (s.respond v).errcode = s.errcode := rfl
@[simp] theorem State.respond_ver (v : Word32) : (s.respond v).ver = s.ver := rfl
@[simp] theorem State.respond_cmdlatch (v : Word32) : (s.respond v).cmdlatch = s.cmdlatch := rfl
@[simp] theorem State.respond_inputs (v : Word32) : (s.respond v).inputs = s.inputs := rfl
@[simp] theorem State.respond_responses (v : Word32) : (s.respond v).responses = v :: s.responses := rfl

/-! ### Accessors after an update -/

@[simp] theorem State.reg_issue (w : Word32) (i : Nat) : (s.issue w).reg i = s.reg i := rfl
@[simp] theorem State.reg_finish (i : Nat) : s.finish.reg i = s.reg i := rfl
@[simp] theorem State.reg_raise (e : CmdError) (i : Nat) : (s.raise e).reg i = s.reg i := rfl
@[simp] theorem State.reg_setPoint (j : Nat) (v : PointReg) (i : Nat) : (s.setPoint j v).reg i = s.reg i := rfl
@[simp] theorem State.reg_setBuf (j : Nat) (b : Buffer) (i : Nat) : (s.setBuf j b).reg i = s.reg i := rfl
@[simp] theorem State.reg_setHaz (i : Nat) : s.setHaz.reg i = s.reg i := rfl
@[simp] theorem State.reg_setOnc (b : Bool) (i : Nat) : (s.setOnc b).reg i = s.reg i := rfl
@[simp] theorem State.reg_setVer (v : Byte) (i : Nat) : (s.setVer v).reg i = s.reg i := rfl
@[simp] theorem State.reg_respond (v : Word32) (i : Nat) : (s.respond v).reg i = s.reg i := rfl

@[simp] theorem State.point_issue (w : Word32) (i : Nat) : (s.issue w).point i = s.point i := rfl
@[simp] theorem State.point_finish (i : Nat) : s.finish.point i = s.point i := rfl
@[simp] theorem State.point_raise (e : CmdError) (i : Nat) : (s.raise e).point i = s.point i := rfl
@[simp] theorem State.point_setReg (j : Nat) (v : Word256) (i : Nat) : (s.setReg j v).point i = s.point i := rfl
@[simp] theorem State.point_setBuf (j : Nat) (b : Buffer) (i : Nat) : (s.setBuf j b).point i = s.point i := rfl
@[simp] theorem State.point_setHaz (i : Nat) : s.setHaz.point i = s.point i := rfl
@[simp] theorem State.point_setOnc (b : Bool) (i : Nat) : (s.setOnc b).point i = s.point i := rfl
@[simp] theorem State.point_setVer (v : Byte) (i : Nat) : (s.setVer v).point i = s.point i := rfl
@[simp] theorem State.point_respond (v : Word32) (i : Nat) : (s.respond v).point i = s.point i := rfl

@[simp] theorem State.buf_issue (w : Word32) (k : Nat) : (s.issue w).buf k = s.buf k := rfl
@[simp] theorem State.buf_finish (k : Nat) : s.finish.buf k = s.buf k := rfl
@[simp] theorem State.buf_raise (e : CmdError) (k : Nat) : (s.raise e).buf k = s.buf k := rfl
@[simp] theorem State.buf_setReg (j : Nat) (v : Word256) (k : Nat) : (s.setReg j v).buf k = s.buf k := rfl
@[simp] theorem State.buf_setPoint (j : Nat) (v : PointReg) (k : Nat) : (s.setPoint j v).buf k = s.buf k := rfl
@[simp] theorem State.buf_setHaz (k : Nat) : s.setHaz.buf k = s.buf k := rfl
@[simp] theorem State.buf_setOnc (b : Bool) (k : Nat) : (s.setOnc b).buf k = s.buf k := rfl
@[simp] theorem State.buf_setVer (v : Byte) (k : Nat) : (s.setVer v).buf k = s.buf k := rfl
@[simp] theorem State.buf_respond (v : Word32) (k : Nat) : (s.respond v).buf k = s.buf k := rfl

theorem State.reg_setReg_self {i : Nat} (h : i < Config.nReg) (v : Word256) : (s.setReg i v).reg i = v := by
  simp [State.reg, h]

theorem State.reg_setReg_ne {i j : Nat} (h : i ≠ j) (v : Word256) : (s.setReg i v).reg j = s.reg j := by
  simp [State.reg, h]

theorem State.point_setPoint_self {i : Nat} (h : i < Config.nPt) (v : PointReg) : (s.setPoint i v).point i = v := by
  simp [State.point, h]

theorem State.point_setPoint_ne {i j : Nat} (h : i ≠ j) (v : PointReg) :
    (s.setPoint i v).point j = s.point j := by
  simp [State.point, h]

theorem State.buf_setBuf_self {k : Nat} (h : k < Config.nBuf) (b : Buffer) : (s.setBuf k b).buf k = b := by
  simp [State.buf, h]

theorem State.buf_setBuf_ne {k j : Nat} (h : k ≠ j) (b : Buffer) : (s.setBuf k b).buf j = s.buf j := by
  simp [State.buf, h]

/-- A write of a buffer that does not exist changes nothing (log 4). -/
theorem State.setBuf_of_le {k : Nat} (h : Config.nBuf ≤ k) (b : Buffer) : s.setBuf k b = s := by
  cases s; simp only [State.setBuf, State.mk.injEq, and_true, true_and]
  apply Vector.ext
  intro i hi
  rw [Vector.getElem_setIfInBounds]
  split
  · omega
  · rfl

/-- The reset event keeps only what is outside the instance (R340). -/
@[simp] theorem State.eventReset_eq :
    s.eventReset = { State.reset with inputs := s.inputs, responses := s.responses } := rfl

@[simp] theorem State.withFetchWord_busy (nbits w : Nat) : (s.withFetchWord nbits w).busy = true := rfl
@[simp] theorem State.withFetchWord_inputs (nbits w : Nat) : (s.withFetchWord nbits w).inputs = [] := rfl
@[simp] theorem State.withFetchWord_cmdlatch (nbits w : Nat) :
    (s.withFetchWord nbits w).cmdlatch = BitVec.ofNat 32 (w % 2 ^ nbits) := rfl

end Sys2Proof.Machine
end

