-- ==== Sys2Proof/Laws/Memory.lean ====
section
/-! SUPPORT. The laws of buffer spaces: a read after a write, canonical form kept by every operation, what the space
of a byte string reads as; and what a written byte string leaves in a buffer. -/

namespace Sys2Proof.Machine

/-! ### Reading after writing -/

theorem Memory.read_write (m : Memory) (hs : m.Pairwise fun c d => c.1 < d.1) (a b : Nat) (v : Byte) :
    (m.write a v).read b = if b = a then v else m.read b := by
  induction m with
  | nil =>
    unfold Memory.write
    split
    · next h => subst h; simp [Memory.read]
    · simp [Memory.read]
  | cons c m ih =>
    obtain ⟨x, w⟩ := c
    rw [List.pairwise_cons] at hs
    have later : ∀ y, y ≤ x → Memory.read m y = unlistedByte := by
      intro y hy
      have : ∀ (l : Memory), (∀ d ∈ l, x < d.1) → Memory.read l y = unlistedByte := by
        intro l
        induction l with
        | nil => intro; rfl
        | cons d l ihl =>
          intro hl
          have hd := hl d (List.mem_cons_self ..)
          simp only [Memory.read]
          rw [if_neg (by omega)]
          exact ihl fun e he => hl e (List.mem_cons_of_mem _ he)
      exact this m hs.1
    unfold Memory.write
    split
    · split
      · next hv =>
        subst hv
        by_cases hb : b = a
        · subst hb
          simp only [Memory.read, if_true]
          rw [if_neg (by omega)]
          exact later b (by omega)
        · rw [if_neg hb]
      · simp only [Memory.read]
    · split
      · next ha =>
        subst ha
        split
        · next hv =>
          subst hv
          by_cases hb : b = a
          · subst hb; simp [later b (le_refl b)]
          · simp [Memory.read, hb]
        · by_cases hb : b = a <;> simp [Memory.read, hb]
      · simp only [Memory.read]
        by_cases hb : b = x
        · subst hb
          rw [if_pos rfl, if_pos rfl, if_neg (by omega)]
        · rw [if_neg hb, if_neg hb]
          exact ih hs.2

/-! ### Canonical form -/

theorem Memory.mem_write {m : Memory} {a : Nat} {v : Byte} {c : Host.Cell} (h : c ∈ m.write a v) :
    c ∈ m ∨ (c = (a, v) ∧ v ≠ unlistedByte) := by
  induction m with
  | nil =>
    unfold Memory.write at h
    split at h
    · cases h
    · next hv => simp only [List.mem_singleton] at h; exact .inr ⟨h, hv⟩
  | cons d m ih =>
    obtain ⟨x, w⟩ := d
    unfold Memory.write at h
    split at h
    · split at h
      · exact .inl h
      · next hv =>
        rcases List.mem_cons.mp h with rfl | h
        · exact .inr ⟨rfl, hv⟩
        · exact .inl h
    · split at h
      · split at h
        · exact .inl (List.mem_cons_of_mem _ h)
        · next hv =>
          rcases List.mem_cons.mp h with rfl | h
          · exact .inr ⟨rfl, hv⟩
          · exact .inl (List.mem_cons_of_mem _ h)
      · rcases List.mem_cons.mp h with rfl | h
        · exact .inl (List.mem_cons_self ..)
        · rcases ih h with h | h
          · exact .inl (List.mem_cons_of_mem _ h)
          · exact .inr h

theorem Memory.pairwise_write {m : Memory} (hs : m.Pairwise fun c d => c.1 < d.1) (a : Nat) (v : Byte) :
    (m.write a v).Pairwise fun c d => c.1 < d.1 := by
  induction m with
  | nil =>
    unfold Memory.write
    split <;> simp
  | cons d m ih =>
    obtain ⟨x, w⟩ := d
    have hs' := List.pairwise_cons.mp hs
    unfold Memory.write
    split
    · next hlt =>
      split
      · exact hs
      · refine List.pairwise_cons.mpr ⟨?_, hs⟩
        intro e he
        rcases List.mem_cons.mp he with rfl | he
        · exact hlt
        · have := hs'.1 e he; simp only at this ⊢; omega
    · split
      · next ha =>
        subst ha
        split
        · exact hs'.2
        · exact List.pairwise_cons.mpr ⟨hs'.1, hs'.2⟩
      · refine List.pairwise_cons.mpr ⟨?_, ih hs'.2⟩
        intro e he
        rcases Memory.mem_write he with he | ⟨rfl, -⟩
        · exact hs'.1 e he
        · simp only; omega

/-- A write inside the buffer space keeps the canonical form. -/
theorem Memory.wf_write {m : Memory} (h : m.wf) {a : Nat} (ha : a < Config.bufCap) (v : Byte) : (m.write a v).wf := by
  refine ⟨Memory.pairwise_write h.1 a v, fun c hc => ?_⟩
  rcases Memory.mem_write hc with hc | ⟨rfl, hv⟩
  · exact h.2 c hc
  · exact ⟨ha, hv⟩

theorem Memory.wf_writeBytes {m : Memory} (h : m.wf) (str : Bytes) {a : Nat} (ha : a + str.length ≤ Config.bufCap) :
    (m.writeBytes a str).wf := by
  induction str generalizing m a with
  | nil => exact h
  | cons v str ih =>
    simp only [List.length_cons] at ha
    exact ih (Memory.wf_write h (by omega) v) (by omega)

theorem Memory.mem_ofBytes {str : Bytes} {a : Nat} {c : Host.Cell} (h : c ∈ Memory.ofBytes a str) :
    a ≤ c.1 ∧ c.1 < a + str.length ∧ c.2 ≠ unlistedByte := by
  induction str generalizing a with
  | nil => cases h
  | cons v str ih =>
    unfold Memory.ofBytes at h
    simp only [List.length_cons]
    split at h
    · obtain ⟨h1, h2, h3⟩ := ih h
      exact ⟨by omega, by omega, h3⟩
    · next hv =>
      rcases List.mem_cons.mp h with rfl | h
      · exact ⟨le_refl _, by simp only; omega, hv⟩
      · obtain ⟨h1, h2, h3⟩ := ih h
        exact ⟨by omega, by omega, h3⟩

theorem Memory.pairwise_ofBytes (str : Bytes) (a : Nat) :
    (Memory.ofBytes a str).Pairwise fun c d => c.1 < d.1 := by
  induction str generalizing a with
  | nil => exact List.Pairwise.nil
  | cons v str ih =>
    unfold Memory.ofBytes
    split
    · exact ih _
    · refine List.pairwise_cons.mpr ⟨fun c hc => ?_, ih _⟩
      have := Memory.mem_ofBytes hc
      simp only; omega

/-- The space of a byte string that fits is in canonical form. -/
theorem Memory.wf_ofBytes {str : Bytes} (h : str.length ≤ Config.bufCap) : (Memory.ofBytes 0 str).wf := by
  refine ⟨Memory.pairwise_ofBytes str 0, fun c hc => ?_⟩
  have := Memory.mem_ofBytes hc
  exact ⟨by omega, this.2.2⟩

/-- The space of a byte string reads as the string, and as 0 after it (R30). -/
theorem Memory.read_ofBytes (str : Bytes) (a b : Nat) (h : a ≤ b) :
    (Memory.ofBytes a str).read b = str.getD (b - a) 0 := by
  induction str generalizing a with
  | nil => rfl
  | cons v str ih =>
    have skip : a < b → (Memory.ofBytes (a + 1) str).read b = (v :: str).getD (b - a) 0 := by
      intro hab
      rw [ih (a + 1) (by omega)]
      obtain ⟨d, hd⟩ : ∃ d, b - a = d + 1 := ⟨b - a - 1, by omega⟩
      rw [hd, show b - (a + 1) = d by omega]
      rfl
    unfold Memory.ofBytes
    split
    · next hv =>
      subst hv
      by_cases hab : a = b
      · subst hab
        have : ∀ (l : Memory), (∀ c ∈ l, a < c.1) → Memory.read l a = unlistedByte := by
          intro l
          induction l with
          | nil => intro; rfl
          | cons d l ihl =>
            intro hl
            have hd := hl d (List.mem_cons_self ..)
            simp only [Memory.read]
            rw [if_neg (by omega)]
            exact ihl fun e he => hl e (List.mem_cons_of_mem _ he)
        rw [this _ fun c hc => (Memory.mem_ofBytes hc).1]
        simp
      · exact skip (by omega)
    · simp only [Memory.read]
      by_cases hab : b = a
      · subst hab; simp
      · rw [if_neg hab]; exact skip (by omega)

/-- A byte string written to a buffer is the buffer's contents (R29, R30). -/
theorem Buffer.bytes_ofBytes (str : Bytes) : (⟨str.length, Memory.ofBytes 0 str⟩ : Buffer).bytes = str := by
  apply List.ext_getElem
  · simp [Buffer.bytes, Memory.readBytes]
  · intro i h1 h2
    simp [Buffer.bytes, Memory.readBytes, Memory.read_ofBytes _ 0 i (Nat.zero_le _), h2]

theorem Buffer.length_bytes (b : Buffer) : b.bytes.length = b.len := by
  simp [Buffer.bytes, Memory.readBytes]

/-- What a command that writes a byte string leaves in that buffer. -/
theorem State.contents_writeString (s : State) {k : Index} (h : k.toNat < Config.nBuf) (str : Bytes) :
    (s.writeString k.toNat str).contents k = str := by
  simp only [State.contents, State.writeString, State.buf_setBuf_self s h, Buffer.bytes_ofBytes]

/-! ### Buffers within their capacity -/

theorem Buffer.ok_ofBytes {str : Bytes} (h : str.length ≤ Config.bufCap) :
    (⟨str.length, Memory.ofBytes 0 str⟩ : Buffer).Ok := ⟨h, Memory.wf_ofBytes h⟩

theorem Buffer.ok_append {b : Buffer} (h : b.Ok) (hne : b.len ≠ Config.bufCap) (v : Byte) : (b.append v).Ok :=
  ⟨Nat.lt_of_le_of_ne h.1 hne, Memory.wf_write h.2 (Nat.lt_of_le_of_ne h.1 hne) v⟩

/-- The buffer spaces of the reset state are in canonical form. -/
theorem reset_bufs_ok : ∀ k, k < Config.nBuf → (State.reset.buf k).Ok := by
  have : ∀ k : Fin Config.nBuf, (State.reset.buf k.val).len ≤ Config.bufCap ∧ (State.reset.buf k.val).data.wf := by
    decide
  exact fun k hk => this ⟨k, hk⟩

end Sys2Proof.Machine
end

