-- ==== Sys2Proof/Laws/Ops.lean ====
section
/-! SUPPORT. For each shared operation, once, everything it can do; and the lengths of the byte strings the
conversions make. -/

namespace Sys2Proof.Machine

/-! ### Completion -/

/-- Completion answers a next state: the written state, finished, or the old state with an error raised. -/
theorem State.conclude_eq_next_iff (s t : State) (r : Except CmdError State) :
    s.conclude r = .next t ↔ (∃ u, r = .ok u ∧ t = u.finish) ∨ (∃ e, r = .error e ∧ t = s.raise e) := by
  cases r <;> simp [State.conclude, eq_comm]

theorem State.conclude_ok (s u : State) : s.conclude (.ok u) = .next u.finish := rfl

theorem State.conclude_error (s : State) (e : CmdError) : s.conclude (.error e) = .next (s.raise e) := rfl

/-- Error numbers run from 1 to 7 (R300). -/
theorem CmdError.number_range (e : CmdError) : 1 ≤ e.number.toNat ∧ e.number.toNat ≤ 7 := by
  cases e <;> decide

theorem CmdError.number_ne_zero (e : CmdError) : e.number ≠ 0 := by
  cases e <;> decide

theorem CmdError.number_injective (e f : CmdError) (h : e.number = f.number) : e = f := by
  cases e <;> cases f <;> first | rfl | (exact absurd h (by decide))

/-- Every command is the completion of what its pseudocode gives: a next state, whatever the state before. -/
theorem exec_eq_conclude (i : Instr) (s : State) : ∃ r, exec i s = s.conclude r := by
  cases i <;>
  · dsimp only [exec, execFadd, execFsub, execFmul, execFneg, execFinv, execPdbl, execPadd, execPchk, execPmul,
      execPmulg, execSchk, execSerc, execSeru, execSha256, execRmd160, execHash160, execB58enc, execB58dec, execR2b,
      execB2r, execBapp]
    exact ⟨_, rfl⟩

/-! ### What a command's write leaves in its destination -/

/-- A register written with a natural number below 2^256 holds it. -/
theorem State.toNat_reg_writeReg (s : State) {i v : Nat} (hi : i < Config.nReg) (hv : v < 2 ^ 256) :
    ((s.writeReg i v).reg i).toNat = v := by
  rw [State.writeReg, State.reg_setReg_self s hi, BitVec.toNat_ofNat, Nat.mod_eq_of_lt hv]

/-- A point register written with a canonical point value holds it. -/
theorem State.holdsPoint_writePoint (s : State) {i : Nat} {P : Point} (hi : i < Config.nPt) (hP : P.Canonical) :
    HoldsPoint ((s.writePoint i P).point i) P := by
  have hp : Config.p < 2 ^ 256 := by decide
  rw [State.writePoint, State.point_setPoint_self s hi]
  cases P with
  | infinity => exact ⟨rfl, rfl, rfl⟩
  | affine x y =>
    obtain ⟨hx, hy⟩ := hP
    refine ⟨rfl, ?_, ?_⟩ <;>
    · simp only [PointReg.ofPoint, BitVec.toNat_ofNat]
      exact Nat.mod_eq_of_lt (by omega)

/-- A buffer written with a byte string holds it, with 0 at every later address (R30). -/
theorem State.bufHolds_writeString (s : State) {k : Nat} (hk : k < Config.nBuf) (str : Bytes) :
    BufHolds (s.writeString k str) k str := by
  unfold BufHolds State.readByte
  rw [State.writeString, State.buf_setBuf_self s hk]
  exact ⟨rfl, fun a => Memory.read_ofBytes str 0 a (Nat.zero_le a)⟩

/-! ### The engine and the host port -/

/-- `Complete`: an illegal word raises IllegalCommand, any other word runs its command. -/
theorem State.complete_eq (s : State) :
    (∃ e, decode s.cmdlatch = .error e ∧ s.complete = .next (s.raise .illegalCommand)) ∨
    (∃ i, decode s.cmdlatch = .ok i ∧ s.complete = exec i s) := by
  unfold State.complete
  cases h : decode s.cmdlatch with
  | error e => exact .inl ⟨e, rfl, rfl⟩
  | ok i => exact .inr ⟨i, rfl, rfl⟩

/-- A host access answers a next state exactly when it is an aligned word inside the window. -/
theorem atOffset_eq_next_iff (off : Nat) (access : Location → State) (t : State) :
    atOffset off access = .next t ↔ off < Config.windowSize ∧ off % 4 = 0 ∧ t = access (locate off) := by
  unfold atOffset
  split
  · next h => simp only [reduceCtorEq, false_iff]; omega
  · next h =>
    split
    · next h4 => simp only [reduceCtorEq, false_iff]; tauto
    · next h4 =>
      have : off % 4 = 0 := by omega
      simp only [Host.Outcome.next.injEq]
      constructor
      · intro e; exact ⟨by omega, this, e.symm⟩
      · rintro ⟨-, -, e⟩; exact e.symm

/-- A host write is ignored at a reserved offset and refused elsewhere while BUSY = 1; while BUSY = 0 it writes. -/
theorem State.hostWrite_cases (s : State) (l : Location) (v : Word32) :
    (s.busy = true ∧ l = .reserved ∧ s.hostWrite l v = s) ∨
    (s.busy = true ∧ l ≠ .reserved ∧ s.hostWrite l v = s.setHaz) ∨
    (s.busy = false ∧ s.hostWrite l v = s.writeLocation v l) := by
  unfold State.hostWrite
  cases hb : s.busy <;> by_cases hl : l = .reserved <;> simp [hl]

/-- A host read is refused, with 0 and HAZ, or served without any effect on the instance. -/
theorem State.hostRead_cases (s : State) (l : Location) :
    (s.busy = true ∧ l.refusesReadWhileBusy = true ∧ s.hostRead l = (0, s.setHaz)) ∨
    (¬(s.busy = true ∧ l.refusesReadWhileBusy = true) ∧ s.hostRead l = (s.readLocation l, s)) := by
  unfold State.hostRead
  cases hb : s.busy <;> cases hl : l.refusesReadWhileBusy <;> simp

/-- Sequencing answers a next state exactly when both parts do. -/
theorem andThen_eq_next_iff {α β : Type} (o : Host.Outcome α Fault Refusal) (f : α → Host.Outcome β Fault Refusal)
    (b : β) : andThen o f = .next b ↔ ∃ a, o = .next a ∧ f a = .next b := by
  cases o <;> simp [andThen]

/-! ### Byte strings -/

theorem length_be (v k : Nat) : (be v k).length = k := by simp [be]

theorem length_le (v k : Nat) : (le v k).length = k := by simp [le]

theorem length_zeros (k : Nat) : (zeros k).length = k := by simp [zeros]

theorem getElem_be (v k i : Nat) (h : i < (be v k).length) : (be v k)[i] = BitVec.ofNat 8 (v / 256 ^ (k - 1 - i)) := by
  simp [be]

theorem fromBE_append_singleton (s : Bytes) (b : Byte) : fromBE (s ++ [b]) = 256 * fromBE s + b.toNat := by
  simp [fromBE]

/-- A byte string of length k is a number below 256^k. -/
theorem fromBE_lt (s : Bytes) : fromBE s < 256 ^ s.length := by
  induction s using List.reverseRecOn with
  | nil => simp [fromBE]
  | append_singleton s b ih =>
    rw [fromBE_append_singleton, List.length_append, List.length_singleton, Nat.pow_succ]
    have := b.isLt
    omega

theorem length_sha256 (M : Bytes) : (sha256 M).length = 32 := by
  simp [sha256, ShaWords.toList, length_be]

theorem length_ripemd160 (M : Bytes) : (ripemd160 M).length = 20 := by
  simp [ripemd160, RmdWords.toList, length_le]

end Sys2Proof.Machine
end

