-- ==== Sys2Proof/Laws/PerInstr.lean ====
section
/-! SUPPORT. The per-instruction family `RowOfFields`: the fields the encoder writes for a command select that
command's own row of the opcode table, with `z` and every unused field zero (30_encoding.md R91, R94, R96). -/

namespace Sys2Proof.Laws.RowOfFields

/-- The encoder's fields are a row of the table, all its unused fields zero, and the row gives the command back. -/
def Statement (i : Instr) : Prop := i.fields.z = 0 ∧ rowOf i.fields = some (i, true)

theorem fadd (rd rs1 rs2 : Index) : Statement (.fadd rd rs1 rs2) := ⟨rfl, rfl⟩

theorem fsub (rd rs1 rs2 : Index) : Statement (.fsub rd rs1 rs2) := ⟨rfl, rfl⟩

theorem fmul (rd rs1 rs2 : Index) : Statement (.fmul rd rs1 rs2) := ⟨rfl, rfl⟩

theorem fneg (rd rs1 : Index) : Statement (.fneg rd rs1) := ⟨rfl, rfl⟩

theorem finv (rd rs1 : Index) : Statement (.finv rd rs1) := ⟨rfl, rfl⟩

theorem pdbl (pd ps1 : Index) : Statement (.pdbl pd ps1) := ⟨rfl, rfl⟩

theorem padd (pd ps1 ps2 : Index) : Statement (.padd pd ps1 ps2) := ⟨rfl, rfl⟩

theorem pchk (ps1 : Index) : Statement (.pchk ps1) := ⟨rfl, rfl⟩

theorem pmul (pd rs ps : Index) : Statement (.pmul pd rs ps) := ⟨rfl, rfl⟩

theorem pmulg (pd rs : Index) : Statement (.pmulg pd rs) := ⟨rfl, rfl⟩

theorem schk (rs : Index) : Statement (.schk rs) := ⟨rfl, rfl⟩

theorem serc (bd ps1 : Index) : Statement (.serc bd ps1) := ⟨rfl, rfl⟩

theorem seru (bd ps1 : Index) : Statement (.seru bd ps1) := ⟨rfl, rfl⟩

theorem sha256 (bd bs1 : Index) : Statement (.sha256 bd bs1) := ⟨rfl, rfl⟩

theorem rmd160 (bd bs1 : Index) : Statement (.rmd160 bd bs1) := ⟨rfl, rfl⟩

theorem hash160 (bd bs1 : Index) : Statement (.hash160 bd bs1) := ⟨rfl, rfl⟩

theorem b58enc (bd bs1 : Index) (ver : Byte) : Statement (.b58enc bd bs1 ver) := ⟨rfl, rfl⟩

theorem b58dec (bd bs1 : Index) : Statement (.b58dec bd bs1) := ⟨rfl, rfl⟩

theorem r2b (bd rs : Index) : Statement (.r2b bd rs) := ⟨rfl, rfl⟩

theorem b2r (rd bs1 : Index) : Statement (.b2r rd bs1) := ⟨rfl, rfl⟩

theorem bapp (bd : Index) (imm : Byte) : Statement (.bapp bd imm) := ⟨rfl, rfl⟩

end Sys2Proof.Laws.RowOfFields
end

