-- ==== Sys2Proof/Machine/Assembly.lean ====
section
/-! DEFINITION. The assembly syntax of 30_encoding.md R100: the mnemonic in capitals, then the operands separated by
commas in the order destination, first source, second source, immediate. -/

namespace Sys2Proof.Machine

/-- A register name, `r0` to `r7`. -/
def regName (i : Index) : String := "r" ++ toString i.toNat

/-- A point register name, `p0` to `p3`. -/
def ptName (i : Index) : String := "p" ++ toString i.toNat

/-- A buffer name, `b0` to `b3`. -/
def bufName (i : Index) : String := "b" ++ toString i.toNat

/-- An immediate as a decimal byte. -/
def immText (v : Byte) : String := toString v.toNat

/-- One line of assembly: the mnemonic and its operands. -/
def asmLine (mnemonic : String) (operands : List String) : String :=
  mnemonic ++ " " ++ String.intercalate ", " operands

/-- The assembly of a command (R100). -/
def assembly : Instr → String
  | .fadd rd rs1 rs2 => asmLine "FADD" [regName rd, regName rs1, regName rs2]
  | .fsub rd rs1 rs2 => asmLine "FSUB" [regName rd, regName rs1, regName rs2]
  | .fmul rd rs1 rs2 => asmLine "FMUL" [regName rd, regName rs1, regName rs2]
  | .fneg rd rs1 => asmLine "FNEG" [regName rd, regName rs1]
  | .finv rd rs1 => asmLine "FINV" [regName rd, regName rs1]
  | .pdbl pd ps1 => asmLine "PDBL" [ptName pd, ptName ps1]
  | .padd pd ps1 ps2 => asmLine "PADD" [ptName pd, ptName ps1, ptName ps2]
  | .pchk ps1 => asmLine "PCHK" [ptName ps1]
  | .pmul pd rs ps => asmLine "PMUL" [ptName pd, regName rs, ptName ps]
  | .pmulg pd rs => asmLine "PMULG" [ptName pd, regName rs]
  | .schk rs => asmLine "SCHK" [regName rs]
  | .serc bd ps1 => asmLine "SERC" [bufName bd, ptName ps1]
  | .seru bd ps1 => asmLine "SERU" [bufName bd, ptName ps1]
  | .sha256 bd bs1 => asmLine "SHA256" [bufName bd, bufName bs1]
  | .rmd160 bd bs1 => asmLine "RMD160" [bufName bd, bufName bs1]
  | .hash160 bd bs1 => asmLine "HASH160" [bufName bd, bufName bs1]
  | .b58enc bd bs1 ver => asmLine "B58ENC" [bufName bd, bufName bs1, immText ver]
  | .b58dec bd bs1 => asmLine "B58DEC" [bufName bd, bufName bs1]
  | .r2b bd rs => asmLine "R2B" [bufName bd, regName rs]
  | .b2r rd bs1 => asmLine "B2R" [regName rd, bufName bs1]
  | .bapp bd imm => asmLine "BAPP" [bufName bd, immText imm]

end Sys2Proof.Machine
end

