-- ==== Sys2Proof/Tests/Slice0.lean ====
section
/-! SUPPORT. The model's own tests. Expected values come from the vectors of spec/95_test_vectors.md or the examples
of the rules named. The last part gives, for every statement with hypotheses, a state and operands that meet them. -/

namespace Sys2Proof.Tests

set_option Elab.async false

open Sys2Proof.Machine

/-! ### Helpers -/

/-- The answer is a next state with the property. -/
def next (o : Result) (P : State → Bool) : Bool :=
  match o with
  | .next t => P t
  | .fault _ => false
  | .refused _ => false

/-- Reset, with the given values in `r[1]` and `r[2]` and 0x55 in `r[0]`. -/
def regs (v w : Nat) : State := ((State.reset.writeReg 0 0x55).writeReg 1 v).writeReg 2 w

/-- Reset, with the given points in `P[0]` and `P[1]`. -/
def points (P Q : Point) : State := (State.reset.writePoint 0 P).writePoint 1 Q

/-- Reset, with the given contents in `buf[0]`, 0xEE in `buf[1]` and 0x77 in VER. -/
def bufs (str : Bytes) : State := ((State.reset.writeString 0 str).writeString 1 [0xEE]).setVer 0x77

/-- The coordinates of 2G (95_test_vectors.md 2.2). -/
def twoG : Point :=
  .affine 0xC6047F9441ED7D6D3045406E95C07CD85C778E4B8CEF3CA7ABAC09B95C709EE5
    0x1AE168FEA63DC339A3C58419466CEAEEF7F632653266D0E1236431A950CFE52A

/-- The coordinates of 3G. -/
def threeG : Point :=
  .affine 0xF9308A019258C31049344F85F89D5229B531C845836F99B08601F113BCE036F9
    0x388F7B0F632DE8140FE337E62A37F3566500A999934C2231B6CB9FD7584B8E672

/-- The 20-byte digest of the reference address (2.6). -/
def refDigest : Bytes := be 0x751E76E8199196D454941C45D1B3A323F1433BD6 20

/-- The reference address as text: one leading character of value zero, then 33 characters. -/
def refText : Bytes :=
  [0x31, 0x42, 0x67, 0x47, 0x5A, 0x39, 0x74, 0x63, 0x4E, 0x34, 0x72, 0x6D, 0x39, 0x4B, 0x42, 0x7A, 0x44,
   0x6E, 0x37, 0x4B, 0x70, 0x72, 0x51, 0x7A, 0x38, 0x37, 0x53, 0x5A, 0x32, 0x36, 0x53, 0x41, 0x4D, 0x48]

/-! ### Well-formedness: an ill-formed term for each check -/

theorem test_wellFormed_refuses_registers :
    ([.fadd 8 0 0, .fadd 0 8 0, .fadd 0 0 8, .fsub 8 0 0, .fsub 0 8 0, .fsub 0 0 8, .fmul 8 0 0, .fmul 0 8 0,
      .fmul 0 0 8, .fneg 8 0, .fneg 0 8, .finv 8 0, .finv 0 8, .pmul 0 8 0, .pmulg 0 8, .schk 8, .r2b 0 8,
      .b2r 8 0] : List Instr).all (fun i => !i.wellFormed) = true := by decide

theorem test_wellFormed_refuses_points :
    ([.pdbl 4 0, .pdbl 0 4, .padd 4 0 0, .padd 0 4 0, .padd 0 0 4, .pchk 4, .pmul 4 0 0, .pmul 0 0 4, .pmulg 4 0,
      .serc 0 4, .seru 0 4] : List Instr).all (fun i => !i.wellFormed) = true := by decide

theorem test_wellFormed_refuses_buffers :
    ([.serc 4 0, .seru 4 0, .sha256 4 0, .sha256 0 4, .rmd160 4 0, .rmd160 0 4, .hash160 4 0, .hash160 0 4,
      .b58enc 4 0 0, .b58enc 0 4 0, .b58dec 4 0, .b58dec 0 4, .r2b 4 0, .b2r 0 4, .bapp 4 0] : List Instr).all
      (fun i => !i.wellFormed) = true := by decide

/-- One command of each constructor, its indices at the top of their ranges. -/
def oneOfEach : List Instr :=
  [.fadd 7 7 7, .fsub 7 7 7, .fmul 7 7 7, .fneg 7 7, .finv 7 7, .pdbl 3 3, .padd 3 3 3, .pchk 3, .pmul 3 7 3,
   .pmulg 3 7, .schk 7, .serc 3 3, .seru 3 3, .sha256 3 3, .rmd160 3 3, .hash160 3 3, .b58enc 3 3 0xFF,
   .b58dec 3 3, .r2b 3 7, .b2r 7 3, .bapp 3 0xFF]

theorem test_wellFormed_accepts : oneOfEach.all Instr.wellFormed = true := by decide

/-! ### Decoding: every constructor from a word written out from R90, R91 and R94 -/

theorem test_decode_field :
    decode 0b00000001_0001_0010_0011_0000_00000000 = .ok (.fadd 1 2 3) ∧
    decode 0b00000010_0000_0001_0010_0000_00000000 = .ok (.fsub 0 1 2) ∧
    decode 0b00000011_0111_0110_0101_0000_00000000 = .ok (.fmul 7 6 5) ∧
    decode 0b00000100_0001_0010_0000_0000_00000000 = .ok (.fneg 1 2) ∧
    decode 0b00000101_0000_0001_0000_0000_00000000 = .ok (.finv 0 1) := by decide

theorem test_decode_point :
    decode 0b00010000_0001_0000_0000_0000_00000000 = .ok (.pdbl 1 0) ∧
    decode 0b00010001_0011_0010_0001_0000_00000000 = .ok (.padd 3 2 1) ∧
    decode 0b00010010_0000_0011_0000_0000_00000000 = .ok (.pchk 3) := by decide

theorem test_decode_scalar :
    decode 0b00011000_0011_0111_0001_0000_00000000 = .ok (.pmul 3 7 1) ∧
    decode 0b00011001_0011_0111_0000_0000_00000000 = .ok (.pmulg 3 7) ∧
    decode 0b00011010_0000_0111_0000_0000_00000000 = .ok (.schk 7) := by decide

theorem test_decode_serialiser_and_hash :
    decode 0b00100000_0011_0010_0000_0000_00000000 = .ok (.serc 3 2) ∧
    decode 0b00100001_0001_0000_0000_0000_00000000 = .ok (.seru 1 0) ∧
    decode 0b00101000_0001_0000_0000_0000_00000000 = .ok (.sha256 1 0) ∧
    decode 0b00101001_0001_0000_0000_0000_00000000 = .ok (.rmd160 1 0) ∧
    decode 0b00101010_0011_0010_0000_0000_00000000 = .ok (.hash160 3 2) := by decide

theorem test_decode_base58_and_move :
    decode 0b00110000_0011_0010_0000_0000_11111111 = .ok (.b58enc 3 2 0xFF) ∧
    decode 0b00110001_0001_0000_0000_0000_00000000 = .ok (.b58dec 1 0) ∧
    decode 0b00111000_0011_0111_0000_0000_00000000 = .ok (.r2b 3 7) ∧
    decode 0b00111001_0111_0011_0000_0000_00000000 = .ok (.b2r 7 3) ∧
    decode 0b00111010_0011_0000_0000_0000_10101011 = .ok (.bapp 3 0xAB) := by decide

/-- The illegal words of 95_test_vectors.md 2.8. -/
theorem test_decode_illegal :
    ([0x00000000, 0xFFFFFFFF, 0x01823000, 0x01123001, 0x01123100, 0x04121000, 0x06000000, 0x10400000, 0x12100000,
      0x18381000, 0x1A170000, 0x2B000000, 0x310000FF, 0x38470000, 0x39740000, 0x39830000, 0x3A310000,
      0x3B000000] : List Word32).all (fun w => (decode w).toOption.isNone && !tableLegal w) = true := by decide

/-- The words of the programs of R277. -/
theorem test_pseudo_words :
    (Pseudo.deriveAddr true 1 0 0 0).program = [0x19000000, 0x20000000, 0x2A000000, 0x30100000] ∧
    (Pseudo.deriveAddr false 1 0 0 0).program = [0x19000000, 0x21000000, 0x2A000000, 0x30100000] ∧
    (Pseudo.deriveWif true 1 0 0).program = [0x1A000000, 0x38000000, 0x3A000001, 0x30100080] ∧
    (Pseudo.deriveWif false 1 0 0).program = [0x1A000000, 0x38000000, 0x30100080] := by decide

/-- The assembly of three commands (R100). -/
theorem test_assembly :
    assembly (.fadd 1 2 3) = "FADD r1, r2, r3" ∧ assembly (.pmul 3 7 1) = "PMUL p3, r7, p1" ∧
    assembly (.b58enc 1 0 128) = "B58ENC b1, b0, 128" := by decide

/-! ### One step of each command -/

/-- 2.1: the sum wraps past p. -/
theorem test_fadd_wraps : next (exec (.fadd 0 1 2) (regs (Config.p - 1) 2)) (fun t => t.reg 0 = 1) = true := by
  decide +kernel

/-- 2.1: raw operands above p are reduced first. -/
theorem test_fadd_raw :
    next (exec (.fadd 0 1 2) (regs (2 ^ 256 - 1) (2 ^ 256 - 1))) (fun t => t.reg 0 = 0x2000007A0) = true := by
  decide +kernel

/-- 2.1: a negative difference wraps. -/
theorem test_fsub_wraps : next (exec (.fsub 0 1 2) (regs 3 5))
    (fun t => t.reg 0 = 0xFFFFFFFFFFFFFFFFFFFFFFFFFFFFFFFFFFFFFFFFFFFFFFFFFFFFFFFEFFFFFC2D) = true := by
  decide +kernel

/-- 2.1: raw p reads as 0. -/
theorem test_fsub_raw :
    next (exec (.fsub 0 1 2) (regs Config.p (Config.p - 1))) (fun t => t.reg 0 = 1) = true := by decide +kernel

/-- 2.1: 2^255 * 2. -/
theorem test_fmul_wraps : next (exec (.fmul 0 1 2) (regs (2 ^ 255) 2)) (fun t => t.reg 0 = 0x1000003D1) = true := by
  decide +kernel

/-- 2.1: Gx * Gy. -/
theorem test_fmul_gx_gy : next (exec (.fmul 0 1 2) (regs Config.gx Config.gy))
    (fun t => t.reg 0 = 0xFD3DC529C6EB60FB9D166034CF3C1A5A72324AA9DFD3428A56D7E1CE0179FD9B) = true := by
  decide +kernel

/-- 2.1: the negative of 0 is 0, also for raw p. -/
theorem test_fneg_zero :
    next (exec (.fneg 0 1) (regs 0 0)) (fun t => t.reg 0 = 0) = true ∧
    next (exec (.fneg 0 1) (regs Config.p 0)) (fun t => t.reg 0 = 0) = true := by decide +kernel

/-- 2.1: the negative of Gy. -/
theorem test_fneg_gy : next (exec (.fneg 0 1) (regs Config.gy 0))
    (fun t => t.reg 0 = 0xB7C52588D95C3B9AA25B0403F1EEF75702E84BB7597AABE663B82F6F04EF2777) = true := by
  decide +kernel

/-- 2.1: the inverse of 7. -/
theorem test_finv_seven : next (exec (.finv 0 1) (regs 7 0))
    (fun t => t.reg 0 = 0xDB6DB6DB6DB6DB6DB6DB6DB6DB6DB6DB6DB6DB6DB6DB6DB6DB6DB6DA9249214D) = true := by
  decide +kernel

/-- 2.1: no inverse for raw p; the destination keeps its value. -/
theorem test_finv_raw_p : next (exec (.finv 0 1) (regs Config.p 0))
    (fun t => t.err && t.errcode = 3 && t.reg 0 = 0x55) = true := by decide +kernel

/-- 2.2: the double of G. -/
theorem test_pdbl_g : next (exec (.pdbl 2 0) (points basePoint .infinity)) (fun t => t.pt 2 = twoG) = true := by
  decide +kernel

/-- 2.2: a point with y = 0 doubles to canonical Infinity. -/
theorem test_pdbl_order_two : next (exec (.pdbl 0 0) (points (.affine 5 0) .infinity))
    (fun t => t.point 0 = ⟨true, 0, 0⟩) = true := by decide +kernel

/-- 2.2: G + 2G. -/
theorem test_padd_chord : next (exec (.padd 2 0 1) (points basePoint twoG))
    (fun t => t.pt 2 = .affine 0xF9308A019258C31049344F85F89D5229B531C845836F99B08601F113BCE036F9
      0x388F7B0F632DE8140FE337E62A37F3566500A99934C2231B6CB9FD7584B8E672) = true := by decide +kernel

/-- 2.2: equal x and different y, off the curve. -/
theorem test_padd_opposite : next (exec (.padd 2 0 1) (points (.affine 1 1) (.affine 1 2)))
    (fun t => t.pt 2 = .infinity) = true := by decide +kernel

/-- 2.2: G is on the curve. -/
theorem test_pchk_on : next (exec (.pchk 0) (points basePoint .infinity)) (fun t => t.onc) = true := by decide +kernel

/-- 2.2: (1, 1), held raw as (p + 1, p + 1), is not; it clears ONC. -/
theorem test_pchk_off : next (exec (.pchk 0) (points (.affine (Config.p + 1) (Config.p + 1)) .infinity |>.setOnc true))
    (fun t => !t.onc && !t.err) = true := by decide +kernel

/-- R160: 5G from `r[1] = 5` and G. -/
theorem test_pmul_five : next (exec (.pmul 1 1 0) ((points basePoint .infinity).writeReg 1 5))
    (fun t => t.pt 1 = .affine 0x2F8BDE4D1A07209355B4A7250A5C5128E88B84BDDC619AB7CBA8D569B240EFE4
      0xD8AC222636E5E3D6D4DBA9DDA6C9C426F788271BAB0D6840DCA87D3AA6AC62D6) = true := by decide +kernel

/-- R160: the scalar 0 is accepted and gives Infinity. -/
theorem test_pmul_zero : next (exec (.pmul 0 1 0) (points basePoint .infinity))
    (fun t => t.point 0 = ⟨true, 0, 0⟩ && !t.err) = true := by decide +kernel

/-- R165: the scalar 1 gives G. -/
theorem test_pmulg_one : next (exec (.pmulg 0 1) (regs 1 0)) (fun t => t.pt 0 = basePoint) = true := by decide +kernel

/-- R165: the scalar n is refused and nothing is written. -/
theorem test_pmulg_order : next (exec (.pmulg 0 1) ((points twoG .infinity).writeReg 1 Config.n))
    (fun t => t.err && t.errcode = 1 && t.pt 0 = twoG) = true := by decide +kernel

/-- R166: n - 1 passes. -/
theorem test_schk_last : next (exec (.schk 1) (regs (Config.n - 1) 0)) (fun t => !t.err) = true := by decide +kernel

/-- R166: 0 fails. -/
theorem test_schk_zero : next (exec (.schk 1) (regs 0 0)) (fun t => t.err && t.errcode = 1) = true := by
  decide +kernel

/-- R181: the compressed key of G. -/
theorem test_serc_g : next (exec (.serc 0 0) (points basePoint .infinity))
    (fun t => t.contents 0 = 0x02 :: be Config.gx 32) = true := by decide +kernel

/-- R181: an odd y gives the prefix 3, read after reduction; Infinity fails. -/
theorem test_serc_odd :
    next (exec (.serc 0 0) (points (.affine 1 (Config.p + 1)) .infinity))
      (fun t => t.contents 0 = 0x03 :: be 1 32) = true ∧
    next (exec (.serc 1 1) (points basePoint .infinity)) (fun t => t.errcode = 2 && t.contents 1 = []) = true := by
  decide +kernel

/-- R182: the uncompressed key of G. -/
theorem test_seru_g : next (exec (.seru 1 0) (points basePoint .infinity))
    (fun t => t.contents 1 = 0x04 :: (be Config.gx 32 ++ be Config.gy 32)) = true := by decide +kernel

/-- R182: Infinity fails as for SERC. -/
theorem test_seru_infinity : next (exec (.seru 1 0) State.reset) (fun t => t.err && t.errcode = 2) = true := by
  decide +kernel

/-- R196: "abc". -/
theorem test_sha256_abc : next (exec (.sha256 1 0) (bufs [0x61, 0x62, 0x63]))
    (fun t => t.contents 1 = be 0xBA7816BF8F01CFEA414140DE5DAE2223B00361A396177A9CB410FF61F20015AD 32) = true := by
  decide +kernel

/-- R206: "abc". -/
theorem test_rmd160_abc : next (exec (.rmd160 1 0) (bufs [0x61, 0x62, 0x63]))
    (fun t => t.contents 1 = be 0x8EB208F7E05D987A9B044A8E98C6B087F15A0BFC 20) = true := by decide +kernel

/-- R210: the digest of the compressed key of G, in place. -/
theorem test_hash160_key : next (exec (.hash160 0 0) (bufs (0x02 :: be Config.gx 32)))
    (fun t => t.contents 0 = refDigest) = true := by decide +kernel

/-- R240: the reference address. -/
theorem test_b58enc_reference : next (exec (.b58enc 1 0 0) (bufs refDigest)) (fun t => t.contents 1 = refText) = true := by
  decide +kernel

/-- 2.6: 89 bytes of 0xFF do not fit. -/
theorem test_b58enc_too_long : next (exec (.b58enc 1 0 0xFF) (bufs (List.replicate 89 0xFF)))
    (fun t => t.err && t.errcode = 7 && t.contents 1 = [0xEE]) = true := by decide +kernel

/-- R250: the reference address decodes to version 0 and the digest. -/
theorem test_b58dec_reference : next (exec (.b58dec 1 0) (bufs refText))
    (fun t => t.ver = 0 && t.contents 1 = refDigest) = true := by decide +kernel

/-- R250: a last character outside the alphabet, and one that only breaks the checksum; VER stays. -/
theorem test_b58dec_errors :
    next (exec (.b58dec 1 0) (bufs (refText.take 33 ++ [0x30])))
      (fun t => t.errcode = 5 && t.ver = 0x77 && t.contents 1 = [0xEE]) = true ∧
    next (exec (.b58dec 1 0) (bufs (refText.take 33 ++ [0x4A])))
      (fun t => t.errcode = 4 && t.ver = 0x77 && t.contents 1 = [0xEE]) = true := by decide +kernel

/-- 2.7: the raw register, not reduced. -/
theorem test_r2b_raw : next (exec (.r2b 0 1) (regs (2 ^ 256 - 1) 0))
    (fun t => t.contents 0 = List.replicate 32 0xFF) = true := by decide +kernel

/-- 2.7: bytes 01 00. -/
theorem test_b2r_two_bytes : next (exec (.b2r 3 0) (bufs [0x01, 0x00])) (fun t => t.reg 3 = 0x100) = true := by
  decide +kernel

/-- 2.7: 33 bytes are too many. -/
theorem test_b2r_too_long : next (exec (.b2r 3 0) (bufs (List.replicate 33 1)))
    (fun t => t.errcode = 7 && t.reg 3 = 0) = true := by decide +kernel

/-- 2.7: the byte at the new length is overwritten, the bytes beyond stay. -/
theorem test_bapp_keeps_beyond :
    next (exec (.bapp 0 0xAA) (State.reset.setBuf 0 ⟨1, Memory.ofBytes 0 [0x11, 0x22, 0x33, 0x44]⟩))
      (fun t => t.buf 0 = ⟨2, Memory.ofBytes 0 [0x11, 0xAA, 0x33, 0x44]⟩) = true := by decide +kernel

/-- 2.7: a full buffer. -/
theorem test_bapp_full : next (exec (.bapp 0 0) (State.reset.setBuf 0 ⟨128, []⟩))
    (fun t => t.errcode = 7 && t.buf 0 = ⟨128, []⟩) = true := by decide +kernel

/-! ### The host port -/

/-- 2.9: two words of a data window and the length make the contents. -/
theorem test_load_buffer :
    next (State.reset.events [.write 0x480 0x04030201, .write 0x484 0x00000005, .write 0x024 5])
      (fun t => t.contents 1 = [1, 2, 3, 4, 5]) = true := by decide +kernel

/-- 2.9: the least significant word of a register is at the lowest offset, and a word write changes 32 bits. -/
theorem test_register_word :
    next ((State.reset.writeReg 2 Config.gx).events [.read 0x140, .write 0x144 0])
      (fun t => t.responses = [0x16F81798] &&
        t.reg 2 = 0x79BE667EF9DCBBAC55A06295CE870B07029BFCDB2DCE28D90000000016F81798) = true := by decide +kernel

/-- 2.9: a BLEN write above BUFCAP is refused; STATUS then reads 4; writing 4 to it clears HAZ. -/
theorem test_blen_refused :
    next (State.reset.events [.write 0x020 129, .read 0x008, .write 0x008 4, .read 0x008])
      (fun t => t.responses = [0, 4] && (t.buf 0).len = 0) = true := by decide +kernel

/-- Events 1 to 9 of program P7: refused accesses while a command runs. -/
theorem test_busy_accesses :
    next (State.reset.events [.write 0x100 7, .write 0x004 0x19000000, .read 0x008, .write 0x100 5, .read 0x100,
      .write 0x004 0x10000000, .write 0x008 4, .read 0x000, .read 0x00C, .read 0x640, .read 0x240])
      (fun t => t.responses = [0, 0x16F81798, 0, 0x4B310001, 0, 1] && t.haz && t.busy && t.reg 0 = 7 &&
        t.cmdlatch = 0x19000000) = true := by decide +kernel

/-- P7: reset abandons the command. -/
theorem test_reset_while_busy :
    next (State.reset.events [.write 0x100 7, .write 0x004 0x19000000, .reset, .engine, .read 0x240])
      (fun t => !t.busy && t.reg 0 = 0 && t.responses = [1]) = true := by decide +kernel

/-- R276, R275: the examples of the rules. -/
theorem test_oracle_functions :
    sharedPrefix refText (refText.take 4 ++ [0x58, 0x58, 0x58, 0x58]) = 4 ∧
    inBitRange 128 8 = some true ∧ inBitRange 256 8 = some false ∧ inBitRange 0 1 = some false := by decide

/-! ### Hypotheses that are met: one witness for each statement that has any -/

/-- Reset with a legal command word just issued. -/
def issued (w : Word32) : State := State.reset.issue w

theorem witness_DecodedWordReencodes : ∃ w i, decode w = .ok i := ⟨0x01123000, _, test_decode_field.1⟩

theorem witness_RowsOfTheOpcodeTable :
    ∃ w, ∃ row ∈ opcodeTable, row.matchesWord w = true := ⟨0x3A3000AB, ⟨0x3A000000, 0xFFCFFF00⟩, by decide, by decide⟩

theorem witness_StepRunsTheLatchedCommand :
    (issued 0x01123000).inputs = [] ∧ (issued 0x01123000).busy = true ∧
      decode (issued 0x01123000).cmdlatch = .ok (.fadd 1 2 3) := by decide

theorem witness_StepRunsTheLatchedCommand_turn :
    ∃ s : State, s.inputs = .engine :: [] ∧ s.busy = true ∧ decode s.cmdlatch = .ok (.fadd 1 2 3) :=
  ⟨{ issued 0x01123000 with inputs := [.engine] }, by decide⟩

theorem witness_StepRunsTheLatchedCommand_event :
    ∃ s : State, s.inputs = .read 0x008 :: [] := ⟨{ State.reset with inputs := [.read 0x008] }, by decide⟩

theorem witness_StepRunsTheLatchedCommand_idle :
    State.reset.inputs = [] ∧ State.reset.busy = false := by decide

theorem witness_IllegalWordEndsWithSix :
    tableLegal (issued 0x01123100).cmdlatch = false ∧ (issued 0x01123100).busy = true := by decide

theorem issued_inv (w : Word32) : (issued w).Inv where
  bufsOk k hk := by
    have h : ∀ k : Fin Config.nBuf, (State.reset.buf k.val).len ≤ Config.bufCap ∧ (State.reset.buf k.val).data.wf := by
      decide
    exact h ⟨k, hk⟩
  errIff := by simp [issued, State.issue]
  errcodeLe := by simp [issued, State.issue]
  busyClear := by simp [issued, State.issue]

theorem witness_StepKeepsInvariant : ∃ t, (issued 0x12030000).Inv ∧ step (issued 0x12030000) = .next t :=
  ⟨_, issued_inv _, rfl⟩

theorem witness_StepStopsOnlyAtForbiddenAccess :
    Config.windowSize ≤ 0x800 ∧ 0x7FE < Config.windowSize ∧ 0x7FE % 4 ≠ 0 := by decide

theorem witness_EveryCommandTerminates :
    ∃ s : State, s.inputs.length = 3 ∧ s.InputsAllowed :=
  ⟨{ State.reset with inputs := [.write 0x004 0x19000000, .read 0x7FC, .engine] }, rfl, by
    intro e he; simp only [List.mem_cons, List.not_mem_nil, or_false] at he
    rcases he with rfl | rfl | rfl <;> decide⟩

theorem witness_FailedCommandWritesNothing : ∃ t, exec (.finv 0 1) State.reset = .next t ∧ t.err = true :=
  ⟨_, rfl, rfl⟩

theorem witness_ErrorsOfEachCommand :
    (Instr.b58dec 1 0).wellFormed = true ∧ 4 ∈ possibleErrors (.b58dec 1 0) ∧ 5 ∈ possibleErrors (.b58dec 1 0) ∧
    3 ∈ possibleErrors (.finv 0 1) ∧ 1 ∈ possibleErrors (.schk 7) ∧ 2 ∈ possibleErrors (.seru 1 0) ∧
    7 ∈ possibleErrors (.bapp 3 0) := by decide

theorem witness_CommandsWriteOnlyWhatTheirRuleNames : ∃ t, exec (.pchk 3) State.reset = .next t := ⟨_, rfl⟩

theorem witness_BusyWindowIsAtomic :
    ∃ t, (issued 0x19000000).busy = true ∧
      (∀ e ∈ [Event.write 0x100 5, Event.read 0x100], e.isHostAccess = true) ∧
      (issued 0x19000000).events [.write 0x100 5, .read 0x100] = .next t :=
  ⟨_, rfl, by decide, rfl⟩

/-- Field commands: operands at the ends of their ranges; source and destination may be one register. -/
theorem witness_field_commands :
    (Instr.fadd 7 7 7).wellFormed = true ∧ (Instr.fsub 7 0 7).wellFormed = true ∧
    (Instr.fmul 0 7 7).wellFormed = true ∧ (Instr.fneg 7 7).wellFormed = true := by decide

theorem witness_FinvResult :
    (Instr.finv 7 1).wellFormed = true ∧ ((regs 0 0).reg 1).toNat % Config.p = 0 ∧
    ((regs Config.p 0).reg 1).toNat % Config.p = 0 ∧ ((regs 1 0).reg 1).toNat % Config.p ≠ 0 ∧
    ((regs (Config.p - 1) 0).reg 1).toNat % Config.p ≠ 0 ∧ ((regs (2 ^ 256 - 1) 0).reg 1).toNat % Config.p ≠ 0 := by
  decide +kernel

theorem witness_InverseAlgorithmsAgree : 0 < Config.p - 1 ∧ Config.p - 1 < Config.p := by decide

theorem witness_PdblResult :
    (Instr.pdbl 3 3).wellFormed = true ∧ (State.reset.point 3).inf = true ∧
    ¬(((points basePoint .infinity).point 0).inf = true ∨
      ((points basePoint .infinity).point 0).y.toNat % Config.p = 0) ∧
    ((points (.affine 5 0) .infinity).point 0).y.toNat % Config.p = 0 := by decide +kernel

theorem witness_PaddResult :
    (Instr.padd 3 3 3).wellFormed = true ∧ (Instr.padd 0 1 2).wellFormed = true := by decide

theorem witness_PchkResult : (Instr.pchk 3).wellFormed = true := by decide

theorem witness_PointsFormAGroup :
    basePoint.Canonical ∧ onCurve basePoint = true ∧ twoG.Canonical ∧ onCurve twoG = true ∧
    Point.infinity.Canonical ∧ onCurve .infinity = true := by
  refine ⟨⟨by decide, by decide⟩, by decide +kernel, ⟨by decide, by decide⟩, by decide +kernel, trivial, rfl⟩

theorem witness_AdditiveHomomorphism :
    bitlen (2 ^ 256 - 1) ≤ 256 ∧ 2 ^ 256 - 1 < 2 ^ 256 ∧ (2 ^ 255 - 1) + 2 ^ 255 < 2 ^ 256 ∧
    basePoint.Canonical ∧ onCurve basePoint = true :=
  ⟨by decide +kernel, by decide, by decide, witness_PointsFormAGroup.1, witness_PointsFormAGroup.2.1⟩

theorem witness_ValidMultiplesAreDistinctPoints :
    (1 ≤ 1 ∧ 1 < Config.n) ∧ (1 ≤ Config.n - 1 ∧ Config.n - 1 < Config.n) := by decide

theorem witness_PmulResult : (Instr.pmul 3 7 3).wellFormed = true := by decide

theorem witness_PmulgResult :
    (Instr.pmulg 3 1).wellFormed = true ∧ ((regs 0 0).reg 1).toNat = 0 ∧
    ((regs Config.n 0).reg 1).toNat = Config.n ∧ ((regs (Config.n - 1) 0).reg 1).toNat = Config.n - 1 ∧
    ((regs 1 0).reg 1).toNat = 1 := by decide +kernel

theorem witness_SchkResult : (Instr.schk 7).wellFormed = true ∧ (Instr.schk 1).wellFormed = true := by decide

theorem witness_serialiser_commands :
    (Instr.serc 3 3).wellFormed = true ∧ (Instr.seru 3 0).wellFormed = true ∧ (State.reset.point 3).inf = true ∧
    ((points basePoint .infinity).point 0).inf = false := by decide +kernel

theorem witness_hash_commands :
    (Instr.sha256 3 3).wellFormed = true ∧ (Instr.rmd160 3 0).wellFormed = true ∧
    (Instr.hash160 0 3).wellFormed = true := by decide

theorem witness_PaddingMakesWholeBlocks :
    (List.replicate 55 (0 : Byte)).length ≤ 55 ∧ 56 ≤ (List.replicate 56 (0 : Byte)).length ∧
    (List.replicate 119 (0 : Byte)).length ≤ 119 ∧ 120 ≤ (List.replicate 120 (0 : Byte)).length ∧
    (List.replicate 128 (0 : Byte)).length ≤ 128 := by decide

theorem witness_ScheduleFollowsTheRecurrence : (List.replicate 64 (0x61 : Byte)).length = 64 := by decide

theorem witness_DecodeIsExactInverse : b58Decode refText = .ok (0, refDigest) := by decide +kernel

theorem witness_DecodeIsExactInverse_error : b58Decode [0x30] = .error .invalidCharacter := by decide +kernel

theorem witness_B58encResult :
    (Instr.b58enc 3 3 0xFF).wellFormed = true ∧
    128 < (b58Encode 0xFF ((bufs (List.replicate 89 0xFF)).contents 0)).length ∧
    (b58Encode 0xFF ((bufs (List.replicate 88 0xFF)).contents 0)).length = 128 := by decide +kernel

theorem witness_B58decResult :
    (Instr.b58dec 3 0).wellFormed = true ∧ b58Decode ((bufs refText).contents 0) = .ok (0, refDigest) ∧
    b58Decode ((bufs [0x80]).contents 0) = .error .invalidCharacter ∧
    b58Decode ((bufs []).contents 0) = .error .invalidChecksum := by decide +kernel

theorem witness_R2bResult : (Instr.r2b 3 7).wellFormed = true := by decide

theorem witness_B2rResult :
    (Instr.b2r 7 3).wellFormed = true ∧ (Instr.b2r 0 0).wellFormed = true ∧ 32 < ((bufs (zeros 33)).buf 0).len ∧
    ((bufs (zeros 32)).buf 0).len ≤ 32 ∧ ((bufs []).buf 0).len ≤ 32 := by decide +kernel

theorem witness_BappResult :
    (Instr.bapp 3 0).wellFormed = true ∧ (Instr.bapp 0 0xFF).wellFormed = true ∧
    (⟨128, []⟩ : Buffer).Ok ∧ (⟨127, []⟩ : Buffer).Ok ∧ (⟨0, []⟩ : Buffer).Ok ∧
    ((State.reset.setBuf 0 ⟨128, []⟩).buf 0).len = 128 ∧ ((State.reset.setBuf 0 ⟨127, []⟩).buf 0).len < 128 :=
  ⟨by decide, by decide, ⟨by decide, by decide⟩, ⟨by decide, by decide⟩, ⟨by decide, by decide⟩, by decide, by decide⟩

theorem witness_RegisterBufferRoundTrip :
    (Instr.r2b 3 7).wellFormed = true ∧ (Instr.b2r 0 3).wellFormed = true ∧ 2 ^ 256 - 1 < 256 ^ 32 := by decide

/-- Idle and busy states, for the statements about the host port. -/
theorem witness_host_port :
    State.reset.busy = false ∧ (issued 0x19000000).busy = true ∧ State.reset.haz = false ∧
    (State.reset.buf 3).Ok ∧ (0x100 + 0x20 * 7 + 4 * 7 : Nat) = 0x1FC ∧
    reservedOffset 0x7FC = true ∧ reservedOffset 0x014 = true ∧ dataOffset 0x3C0 = true ∧ dataOffset 0x5FC = true ∧
    reservedOffset 0x3C4 = true ∧ dataOffset 0x3C4 = false ∧ reservedOffset 0x680 = false :=
  ⟨rfl, rfl, rfl, ⟨by decide, by decide⟩, by decide, by decide, by decide, by decide, by decide, by decide, by decide,
    by decide⟩

/-- A busy state that meets the invariant of a buffer, for the refusals of `BufferWindow`; the boundary of BLEN. -/
theorem witness_BufferWindow :
    (issued 0x19000000).busy = true ∧ ((issued 0x19000000).buf 3).Ok ∧ (128 : Word32).toNat ≤ 128 ∧
    128 < (129 : Word32).toNat := ⟨rfl, ⟨by decide, by decide⟩, by decide, by decide⟩

theorem witness_RefusedAccesses :
    (∃ t, State.reset.eventWrite 0x02C 129 = .next t ∧ t.haz = true) ∧
    (∃ t, State.reset.eventRead 0x5FC = .next t) ∧
    (∃ t, State.reset.setHaz.event (.write 0x008 4) = .next t ∧ t.haz = false) :=
  ⟨⟨_, rfl, rfl⟩, ⟨_, rfl⟩, ⟨_, rfl, rfl⟩⟩

theorem witness_InstancesAreIndependent : 1 < 2 := by decide

theorem witness_DeriveAddressProgram :
    bufOk 3 = true ∧ regOk 1 = true ∧ ptOk 3 = true ∧ bufOk 0 = true ∧ (regs 1 0).busy = false ∧
    ((regs 1 0).reg 1).toNat = 1 ∧ ((regs 0 0).reg 1).toNat = 0 ∧ ((regs Config.n 0).reg 1).toNat = Config.n ∧
    ((regs (Config.n - 1) 0).reg 1).toNat = Config.n - 1 := by decide +kernel

theorem witness_DeriveWifProgram :
    bufOk 3 = true ∧ regOk 1 = true ∧ bufOk 0 = true ∧ (regs (Config.n - 1) 0).busy = false ∧
    ((regs 1 0).reg 1).toNat = 1 ∧ ((regs (Config.n - 1) 0).reg 1).toNat = Config.n - 1 := by decide +kernel

theorem witness_DeriveWifProgram_invalid :
    (regs 0 0).busy = false ∧ ((regs 0 0).reg 1).toNat = 0 ∧
    (regs Config.n 0).busy = false ∧ ((regs Config.n 0).reg 1).toNat = Config.n := by decide +kernel

theorem witness_MatchesTargetAnswer :
    Config.n ≤ Config.n ∧ Config.n ≤ 2 ^ 256 ∧ (1 ≤ Config.n - 1 ∧ Config.n - 1 < Config.n) := by decide

theorem witness_BitRangeAndSharedPrefix : 1 ≤ 1 ∧ 1 ≤ 256 := by decide

end Sys2Proof.Tests
end

section
/-! PROOFS. The field prime and the curve order are prime (00_scope.md R8, R9), by Pocklington's criterion: a partial
factorisation of `N - 1` and one witness prove `N` prime without a search for its divisors. -/

namespace Sys2Proof.Primality

/-! ### Pocklington's criterion -/

/-- The order of the cofactor power: `F = L.prod` is a divisor of an exponent `m` that kills `x`, and no prime of `F`
can be left out of `m`. -/
theorem orderOf_pow_div_prod {M : Type*} [Monoid M] {x : M} {m : ℕ} {L : List ℕ} (hL : ∀ q ∈ L, q.Prime)
    (hdvd : L.prod ∣ m) (hm : 0 < m) (hx : x ^ m = 1) (hne : ∀ q ∈ L, x ^ (m / q) ≠ 1) :
    orderOf (x ^ (m / L.prod)) = L.prod := by
  have hpos : 0 < L.prod := Nat.pos_of_dvd_of_pos hdvd hm
  refine orderOf_eq_of_pow_and_pow_div_prime hpos ?_ fun q hq hqL => ?_
  · rw [← pow_mul, Nat.div_mul_cancel hdvd, hx]
  · obtain ⟨r, hr, hqr⟩ := (Prime.dvd_prod_iff hq.prime).1 hqL
    obtain rfl : q = r := (Nat.prime_dvd_prime_iff_eq hq (hL r hr)).1 hqr
    rw [← pow_mul, Nat.div_mul_div_comm hdvd hqL, mul_comm L.prod, Nat.mul_div_mul_right _ _ hpos]
    exact hne q hr

/-- Every prime divisor `r` of `N` exceeds the factored part of `N - 1`: modulo `r` some element has that part as its
order, and an order modulo `r` divides `r - 1`. -/
theorem prod_lt_of_prime_dvd {N r : ℕ} {a : ZMod N} {L : List ℕ} (hr : r.Prime) (hrN : r ∣ N) (hN : 1 < N)
    (hL : ∀ q ∈ L, q.Prime) (hdvd : L.prod ∣ N - 1) (hpow : a ^ (N - 1) = 1)
    (hunit : ∀ q ∈ L, IsUnit (a ^ ((N - 1) / q) - 1)) : L.prod < r := by
  have : Fact r.Prime := ⟨hr⟩
  let f : ZMod N →+* ZMod r := ZMod.castHom hrN (ZMod r)
  have hfpow : f a ^ (N - 1) = 1 := by rw [← map_pow, hpow, map_one]
  have hfne : ∀ q ∈ L, f a ^ ((N - 1) / q) ≠ 1 := fun q hq h => by
    have hu : IsUnit (f (a ^ ((N - 1) / q) - 1)) := (hunit q hq).map f
    rw [map_sub, map_pow, map_one, h, sub_self] at hu
    exact not_isUnit_zero hu
  have hfa : f a ≠ 0 := fun h => by
    rw [h, zero_pow (by omega)] at hfpow
    exact zero_ne_one hfpow
  have hord : L.prod ∣ r - 1 :=
    orderOf_pow_div_prod hL hdvd (by omega) hfpow hfne ▸ ZMod.orderOf_dvd_card_sub_one (pow_ne_zero _ hfa)
  have := hr.two_le
  have := Nat.le_of_dvd (by omega) hord
  omega

/-- Pocklington's criterion: the primes `L` make up a divisor of `N - 1` larger than the square root of `N`. -/
theorem prime_of_pocklington {N : ℕ} (a : ZMod N) (L : List ℕ) (hL : L.Forall Nat.Prime) (hN : 1 < N)
    (hdvd : L.prod ∣ N - 1) (hlarge : N < L.prod ^ 2) (hpow : a ^ (N - 1) = 1)
    (hunit : L.Forall fun q => IsUnit (a ^ ((N - 1) / q) - 1)) : N.Prime := by
  rw [List.forall_iff_forall_mem] at hL hunit
  by_contra hcomp
  have hlt : L.prod < N.minFac :=
    prod_lt_of_prime_dvd (Nat.minFac_prime hN.ne') N.minFac_dvd hN hL hdvd hpow hunit
  have hsq : N.minFac ^ 2 ≤ N := Nat.minFac_sq_le_self (by omega) hcomp
  have hpow_lt : L.prod ^ 2 < N.minFac ^ 2 := Nat.pow_lt_pow_left hlt two_ne_zero
  omega

/-- A numeral coprime to `N` is a unit modulo `N`. -/
theorem isUnit_ofNat {N c : ℕ} [c.AtLeastTwo] (h : Nat.Coprime (OfNat.ofNat c) N) :
    IsUnit (OfNat.ofNat c : ZMod N) := by
  rw [← Nat.cast_ofNat]
  exact (ZMod.isUnit_iff_coprime _ N).2 h

/-! ### The chain of primes under `p`: each stands in `N - 1` of the next -/

theorem prime_128_bits : Nat.Prime 255515944373312847190720520512484175977 := by
  refine prime_of_pocklington 2 [96557, 7240687, 107590001] ?_ (by norm_num) (by norm_num) (by norm_num)
    (by reduce_mod_char) ?_
  · norm_num [List.Forall]
  · simp only [List.Forall]
    reduce_mod_char
    exact ⟨isUnit_ofNat (by norm_num), isUnit_ofNat (by norm_num), isUnit_ofNat (by norm_num)⟩

theorem prime_237_bits :
    Nat.Prime 205115282021455665897114700593932402728804164701536103180137503955397371 := by
  refine prime_of_pocklington 2 [255515944373312847190720520512484175977] ?_ (by norm_num) (by norm_num)
    (by norm_num) (by reduce_mod_char) ?_
  · exact prime_128_bits
  · simp only [List.Forall]
    reduce_mod_char
    exact isUnit_ofNat (by norm_num)

/-- The field prime is prime (R8). -/
theorem prime_p : Nat.Prime Config.p := by
  unfold Config.p
  refine prime_of_pocklington 2 [205115282021455665897114700593932402728804164701536103180137503955397371] ?_
    (by norm_num) (by norm_num) (by norm_num) (by reduce_mod_char) ?_
  · exact prime_237_bits
  · simp only [List.Forall]
    reduce_mod_char
    exact isUnit_ofNat (by norm_num)

/-! ### The primes under `n` -/

theorem prime_57_bits : Nat.Prime 107361793816595537 := by
  refine prime_of_pocklington 2 [85831, 4681609] ?_ (by norm_num) (by norm_num) (by norm_num)
    (by reduce_mod_char) ?_
  · norm_num [List.Forall]
  · simp only [List.Forall]
    reduce_mod_char
    exact ⟨isUnit_ofNat (by norm_num), isUnit_ofNat (by norm_num)⟩

theorem prime_68_bits : Nat.Prime 174723607534414371449 := by
  refine prime_of_pocklington 2 [120233, 44706919] ?_ (by norm_num) (by norm_num) (by norm_num)
    (by reduce_mod_char) ?_
  · norm_num [List.Forall]
  · simp only [List.Forall]
    reduce_mod_char
    exact ⟨isUnit_ofNat (by norm_num), isUnit_ofNat (by norm_num)⟩

/-- The curve order is prime (R9). -/
theorem prime_n : Nat.Prime Config.n := by
  unfold Config.n
  refine prime_of_pocklington 2 [631, 107361793816595537, 174723607534414371449] ?_ (by norm_num) (by norm_num)
    (by norm_num) (by reduce_mod_char) ?_
  · exact ⟨by norm_num, prime_57_bits, prime_68_bits⟩
  · simp only [List.Forall]
    reduce_mod_char
    exact ⟨isUnit_ofNat (by norm_num), isUnit_ofNat (by norm_num), isUnit_ofNat (by norm_num)⟩

/-- Settles O22: the values are the constants themselves; both are prime by the certificates above. -/
theorem fieldPrimeAndOrderArePrime : Obligations.FieldPrimeAndOrderArePrime := by
  have hn_lt_p : Config.n < Config.p := by decide
  exact ⟨by decide, rfl, prime_p, by decide, rfl, prime_n, hn_lt_p⟩

end Sys2Proof.Primality
end

section
/-! PROOFS. The base point (00_scope.md R10). -/

namespace Sys2Proof.Machine

theorem basePoint_equation : Config.gy ^ 2 % Config.p = (Config.gx ^ 3 + 7) % Config.p := by decide

/-- `n` is the order of the base point: the run of the model's double-and-add loop on `n` itself, a closed
computation of 256 rounds in the kernel's arithmetic. -/
theorem multiply_order_basePoint : multiply Config.n basePoint = .infinity := by decide +kernel

/-- Settles O23: the curve equation at G and the order of G, each computed by the model. -/
theorem basePointFacts : Obligations.BasePointFacts :=
  ⟨rfl, basePoint_equation, by decide, multiply_order_basePoint⟩

end Sys2Proof.Machine
end

section
/-! PROOFS. Reset (10_state.md R42, 70_reset_and_hazards.md R340). -/

namespace Sys2Proof.Machine

/-! ### The reset state, through the accessors -/

@[simp] theorem State.reg_reset {i : Nat} (h : i < Config.nReg) : State.reset.reg i = 0 := by
  simp [State.reg, State.reset, h]

@[simp] theorem State.point_reset {i : Nat} (h : i < Config.nPt) :
    State.reset.point i = PointReg.canonicalInfinity := by
  simp [State.point, State.reset, h]

@[simp] theorem State.buf_reset {k : Nat} (h : k < Config.nBuf) : State.reset.buf k = ⟨0, []⟩ := by
  simp [State.buf, State.reset, h]

/-- An idle engine does nothing at its turn (R335). -/
theorem State.engineTurn_of_idle {s : State} (h : s.busy = false) : s.engineTurn = .next s := by
  simp [State.engineTurn, h]

/-- Every row of the table of R42, whatever events and responses the state keeps beside it (log 10). -/
theorem resetValues_of_eq (es : List Event) (ws : List Word32) (u : State)
    (hu : u = { State.reset with inputs := es, responses := ws }) :
    (∀ i, i < 8 → u.reg i = 0) ∧
    (∀ i, i < 4 → (u.point i).inf = true ∧ (u.point i).x = 0 ∧ (u.point i).y = 0) ∧
    (∀ k, k < 4 → (u.buf k).len = 0 ∧ ∀ a, u.readByte k a = 0) ∧
    u.busy = false ∧ u.err = false ∧ u.haz = false ∧ u.onc = false ∧
    u.errcode = 0 ∧ u.ver = 0 ∧ u.cmdlatch = 0 ∧ u.engineTurn = .next u := by
  have hreg (i : Nat) : u.reg i = State.reset.reg i := by subst hu; rfl
  have hpoint (i : Nat) : u.point i = State.reset.point i := by subst hu; rfl
  have hbuf (k : Nat) : u.buf k = State.reset.buf k := by subst hu; rfl
  refine ⟨fun i hi => ?_, fun i hi => ?_, fun k hk => ?_, ?_⟩
  · rw [hreg, State.reg_reset hi]
  · rw [hpoint, State.point_reset hi]
    exact ⟨rfl, rfl, rfl⟩
  · have hempty : u.buf k = ⟨0, []⟩ := (hbuf k).trans (State.buf_reset hk)
    exact ⟨congrArg Buffer.len hempty, fun a => congrArg (fun b => b.data.read a) hempty⟩
  · subst hu
    exact ⟨rfl, rfl, rfl, rfl, rfl, rfl, rfl, State.engineTurn_of_idle rfl⟩

/-- Settles O7: the state after a reset event and `State.reset` differ only in the two fields of the model's own. -/
theorem resetValues : Obligations.ResetValues := by
  intro s
  refine ⟨s.eventReset, rfl, ?_⟩
  rintro u (hu | hu)
  · exact resetValues_of_eq s.inputs s.responses u hu
  · exact resetValues_of_eq [] [] u hu

/-- Settles O8: the buffers are empty, and no error is recorded. -/
theorem resetMeetsInvariant : Obligations.ResetMeetsInvariant where
  bufsOk := reset_bufs_ok
  errIff := by simp [State.reset]
  errcodeLe := by simp [State.reset]
  busyClear := by simp [State.reset]

end Sys2Proof.Machine
end

section
/-! PROOFS. What a host access at an offset does, by the location the register map gives it (20_memory.md R66, R71,
R76); and STATUS, ERRCODE and VER (10_state.md R33, R35, R37, R38). -/

namespace Sys2Proof.Machine

/-! ### Accesses by location -/

/-- The offset is an aligned word of the window, at the location `l` of the register map (R64, R70). -/
def MapsTo (off : Nat) (l : Location) : Prop := off < Config.windowSize ∧ off % 4 = 0 ∧ locate off = l

variable {s : State} {off : Nat} {l : Location}

theorem MapsTo.atOffset_eq (h : MapsTo off l) (access : Location → State) :
    atOffset off access = .next (access l) := by
  obtain ⟨hoff, halign, rfl⟩ := h
  exact (atOffset_eq_next_iff off access _).2 ⟨hoff, halign, rfl⟩

theorem MapsTo.readServed (h : MapsTo off l) (hl : s.busy = true → l.refusesReadWhileBusy = false) :
    ReadServed s off (s.readLocation l) := by
  have hread : s.hostRead l = (s.readLocation l, s) := by
    obtain ⟨hb, hr, -⟩ | ⟨-, hread⟩ := s.hostRead_cases l
    · simp [hl hb] at hr
    · exact hread
  unfold ReadServed State.eventRead
  rw [h.atOffset_eq, hread]
  rfl

theorem MapsTo.readRefused (h : MapsTo off l) (hb : s.busy = true) (hl : l.refusesReadWhileBusy = true) :
    ReadRefused s off := by
  have hread : s.hostRead l = (0, s.setHaz) := by simp [State.hostRead, hb, hl]
  unfold ReadRefused State.eventRead
  rw [h.atOffset_eq, hread]
  rfl

theorem MapsTo.writeRefused (h : MapsTo off l) (hb : s.busy = true) (hl : l ≠ .reserved) (v : Word32) :
    WriteRefused s off v := by
  have hwrite : s.hostWrite l v = s.setHaz := by simp [State.hostWrite, hb, hl]
  unfold WriteRefused State.eventWrite
  rw [h.atOffset_eq, hwrite]
  rfl

/-- While BUSY = 0 a host write has the effect of its location. -/
theorem MapsTo.eventWrite_of_idle (h : MapsTo off l) (hb : s.busy = false) (v : Word32) :
    s.eventWrite off v = .next (s.writeLocation v l) := by
  unfold State.eventWrite
  rw [h.atOffset_eq]
  simp [State.hostWrite, hb]

/-! ### The control registers -/

theorem mapsTo_id : MapsTo 0x000 .id := ⟨by decide, rfl, rfl⟩
theorem mapsTo_status : MapsTo 0x008 .status := ⟨by decide, rfl, rfl⟩
theorem mapsTo_errcode : MapsTo 0x00C .errcode := ⟨by decide, rfl, rfl⟩
theorem mapsTo_ver : MapsTo 0x010 .ver := ⟨by decide, rfl, rfl⟩

/-- STATUS as the sum of the weights of the flags that are set (R35). -/
theorem State.statusWord_eq (s : State) :
    s.statusWord = BitVec.ofNat 32 ((if s.busy then 1 else 0) + (if s.err then 2 else 0) + (if s.haz then 4 else 0) +
      (if s.onc then 8 else 0)) := by
  have weight (b : Bool) (w : Nat) : w * b.toNat = if b then w else 0 := by cases b <;> simp
  have hbusy : s.busy.toNat = if s.busy then 1 else 0 := by rw [← weight, one_mul]
  simp only [State.statusWord, weight, hbusy]

/-- A byte as a host reads it: its number, bits 31:8 zero. -/
theorem setWidth_eq_ofNat_toNat (b : Byte) : BitVec.setWidth 32 b = BitVec.ofNat 32 b.toNat := by
  apply BitVec.eq_of_toNat_eq
  simp

/-- VER reads as its byte (R38). -/
theorem State.verWord_eq (s : State) : s.verWord = BitVec.ofNat 32 s.ver.toNat := setWidth_eq_ofNat_toNat s.ver

/-- While BUSY = 0 ERRCODE reads as its number (R37). -/
theorem State.errcodeWord_of_idle {s : State} (h : s.busy = false) :
    s.errcodeWord = BitVec.ofNat 32 s.errcode.toNat := by
  rw [State.errcodeWord, h]
  exact setWidth_eq_ofNat_toNat s.errcode

/-- While BUSY = 1 ERRCODE reads as 0 (R37). -/
theorem State.errcodeWord_of_busy {s : State} (h : s.busy = true) : s.errcodeWord = 0 := by
  simp [State.errcodeWord, h]

/-- Settles O50: each access by the location of its offset, the STATUS read first, then the idle and the busy
accesses. -/
theorem statusErrcodeAndVer : Obligations.StatusErrcodeAndVer := by
  intro s v
  refine ⟨?_, fun hidle => ?_, fun hbusy => ?_⟩
  · rw [← s.statusWord_eq]
    exact mapsTo_status.readServed fun _ => rfl
  · refine ⟨mapsTo_status.eventWrite_of_idle hidle v, mapsTo_errcode.eventWrite_of_idle hidle v,
      mapsTo_ver.eventWrite_of_idle hidle v, mapsTo_id.eventWrite_of_idle hidle v, ?_, ?_⟩
    · rw [← State.errcodeWord_of_idle hidle]
      exact mapsTo_errcode.readServed fun _ => rfl
    · rw [← s.verWord_eq]
      exact mapsTo_ver.readServed fun hbusy => absurd hbusy (by simp [hidle])
  · refine ⟨mapsTo_status.writeRefused hbusy (by decide) v, mapsTo_errcode.writeRefused hbusy (by decide) v,
      mapsTo_ver.writeRefused hbusy (by decide) v, mapsTo_id.writeRefused hbusy (by decide) v, ?_,
      mapsTo_ver.readRefused hbusy rfl⟩
    rw [← State.errcodeWord_of_busy hbusy]
    exact mapsTo_errcode.readServed fun _ => rfl

end Sys2Proof.Machine
end

section
/-! PROOFS. The lengths of the byte strings a command can write to a buffer: with sources within BUFCAP none is longer
than BUFCAP (10_state.md R30, R43). -/

namespace Sys2Proof.Machine

/-! ### The shortest big-endian form -/

/-- `bitlen` is the least length whose numbers include `v` (00_scope.md R15). -/
theorem bitlen_le_iff (v k : Nat) : bitlen v ≤ k ↔ v < 2 ^ k := by
  unfold bitlen
  split
  next h => simp [h]
  next h => rw [Nat.succ_le_iff, Nat.log2_lt h]

theorem length_minBE_le {v k : Nat} (h : v < 256 ^ k) : (minBE v).length ≤ k := by
  have hpow : 2 ^ (8 * k) = 256 ^ k := by rw [Nat.pow_mul]
  have hbits : bitlen v ≤ 8 * k := (bitlen_le_iff v (8 * k)).2 (hpow ▸ h)
  rw [minBE, length_be]
  omega

/-! ### Decoded base-58 text -/

theorem val58_lt {c : Byte} {d : Nat} (h : val58 c = some d) : d < 58 := by
  simp only [val58] at h
  split_ifs at h <;> simp only [Option.some.injEq] at h <;> omega

theorem digitsOfText_cons_eq_some {c : Byte} {s : Bytes} {ds : List Nat} :
    digitsOfText (c :: s) = some ds ↔
      ∃ d ds', val58 c = some d ∧ digitsOfText s = some ds' ∧ ds = d :: ds' := by
  cases hc : val58 c <;> cases hs : digitsOfText s <;> simp [digitsOfText, hc, hs, eq_comm]

theorem length_digitsOfText {s : Bytes} {ds : List Nat} (h : digitsOfText s = some ds) : ds.length = s.length := by
  induction s generalizing ds with
  | nil => cases h; rfl
  | cons c s ih =>
    obtain ⟨d, ds', -, hs, rfl⟩ := digitsOfText_cons_eq_some.1 h
    simp [ih hs]

theorem digitsOfText_lt {s : Bytes} {ds : List Nat} (h : digitsOfText s = some ds) : ∀ d ∈ ds, d < 58 := by
  induction s generalizing ds with
  | nil => cases h; simp
  | cons c s ih =>
    obtain ⟨d, ds', hc, hs, rfl⟩ := digitsOfText_cons_eq_some.1 h
    exact List.forall_mem_cons.2 ⟨val58_lt hc, ih hs⟩

/-- Base-58 digits of length k make a number below 58^k. -/
theorem fromDigits58_lt {ds : List Nat} (h : ∀ d ∈ ds, d < 58) : fromDigits58 ds < 58 ^ ds.length := by
  induction ds using List.reverseRecOn with
  | nil => simp [fromDigits58]
  | append_singleton ds d ih =>
    have hd : d < 58 := h d (by simp)
    have hds : fromDigits58 ds < 58 ^ ds.length := ih fun e he => h e (by simp [he])
    have hcons : fromDigits58 (ds ++ [d]) = 58 * fromDigits58 ds + d := by simp [fromDigits58]
    rw [hcons, List.length_append, List.length_singleton, Nat.pow_succ]
    omega

/-- A digit of base 58 is less than a byte, so the bytes of a text are no more than its characters. -/
theorem length_bytesOfDigits_le {ds : List Nat} (h : ∀ d ∈ ds, d < 58) : (bytesOfDigits ds).length ≤ ds.length := by
  rw [bytesOfDigits, List.length_append, length_zeros]
  set z := (ds.takeWhile (· == 0)).length
  have hzle : z ≤ ds.length := (List.takeWhile_sublist _).length_le
  have hrest : (minBE (fromDigits58 (ds.drop z))).length ≤ (ds.drop z).length := by
    refine length_minBE_le ?_
    calc fromDigits58 (ds.drop z) < 58 ^ (ds.drop z).length :=
          fromDigits58_lt fun d hd => h d (List.mem_of_mem_drop hd)
      _ ≤ 256 ^ (ds.drop z).length := Nat.pow_le_pow_left (by omega) _
  rw [List.length_drop] at hrest
  omega

/-- The payload of a decoded text is no longer than the text (R245). -/
theorem length_payload_le {s payload : Bytes} {ver : Byte} (h : b58Decode s = .ok (ver, payload)) :
    payload.length ≤ s.length := by
  unfold b58Decode at h
  cases hds : digitsOfText s with
  | none => simp [hds] at h
  | some ds =>
    have hfull : (bytesOfDigits ds).length ≤ s.length :=
      length_digitsOfText hds ▸ length_bytesOfDigits_le (digitsOfText_lt hds)
    simp only [hds] at h
    split_ifs at h
    simp only [Except.ok.injEq, Prod.mk.injEq] at h
    obtain ⟨-, rfl⟩ := h
    simp only [List.length_tail, List.length_take]
    omega

/-! ### Serialised points and text that fits -/

theorem length_compress {P : Point} {str : Bytes} (h : compress P = .ok str) : str.length = 33 := by
  cases P with
  | infinity => cases h
  | affine x y => cases h; simp [length_be]

theorem length_uncompressed {P : Point} {str : Bytes} (h : uncompressed P = .ok str) : str.length = 65 := by
  cases P with
  | infinity => cases h
  | affine x y => cases h; simp [length_be]

theorem length_le_of_fitBuffer {text str : Bytes} (h : fitBuffer text = .ok str) : str.length ≤ Config.bufCap := by
  unfold fitBuffer at h
  split at h
  · cases h
  next hfits =>
    cases h
    exact Nat.not_lt.1 hfits

theorem length_hash160 (M : Bytes) : (hash160 M).length = 20 := length_ripemd160 _

end Sys2Proof.Machine
end

section
/-! PROOFS. What a command can write, said once for every command: its one destination, its flag or VER
(10_state.md R22, R27, R31, R38, R41). -/

namespace Sys2Proof.Machine

/-- Every buffer is within its capacity and in canonical form (R43). -/
def State.BufsOk (s : State) : Prop := ∀ k, (s.buf k).Ok

/-- The states the pseudocode of `i` can leave, evaluated on `s`, before the command completes: nothing written, or
the one destination that the command's rule names. A buffer it writes is within capacity if those before were. -/
inductive CommandWrite (i : Instr) (s : State) : State → Prop where
  /-- SCHK (42_scalarmul.md R166). -/
  | nothing : CommandWrite i s s
  /-- The destination register (R22). -/
  | reg {d : Index} (h : writesReg i = some d) (v : Word256) : CommandWrite i s (s.setReg d.toNat v)
  /-- The destination point register (R27). -/
  | point {d : Index} (h : writesPoint i = some d) (v : PointReg) : CommandWrite i s (s.setPoint d.toNat v)
  /-- The destination buffer (R31). -/
  | buf {d : Index} (h : writesBuf i = some d) {b : Buffer} (hb : s.BufsOk → b.Ok) :
    CommandWrite i s (s.setBuf d.toNat b)
  /-- PCHK (41_point.md R150). -/
  | onc {ps : Index} (h : i = .pchk ps) (b : Bool) : CommandWrite i s (s.setOnc b)
  /-- B58DEC, which writes VER beside its buffer (45_base58.md R250). -/
  | verAndBuf {bd bs : Index} (h : i = .b58dec bd bs) (v : Byte) {b : Buffer} (hb : s.BufsOk → b.Ok) :
    CommandWrite i s ((s.setVer v).setBuf bd.toNat b)

section Writes

variable {i : Instr} {s t u : State}

/-- A command that writes a byte string no longer than a buffer. -/
theorem CommandWrite.string {d : Index} {str : Bytes} (h : writesBuf i = some d)
    (hlen : str.length ≤ Config.bufCap) : CommandWrite i s (s.writeString d.toNat str) :=
  .buf h fun _ => Buffer.ok_ofBytes hlen

/-- Where the pseudocode raises no error, what it leaves is a `CommandWrite`. -/
def WritesOrRaises (i : Instr) (s : State) (r : Except CmdError State) : Prop := ∀ u, r = .ok u → CommandWrite i s u

theorem WritesOrRaises.ok (h : CommandWrite i s u) : WritesOrRaises i s (.ok u) := by
  rintro _ ⟨⟩
  exact h

theorem WritesOrRaises.error (e : CmdError) : WritesOrRaises i s (.error e) := by
  rintro _ ⟨⟩

theorem WritesOrRaises.ite {c : Prop} [Decidable c] {r r' : Except CmdError State} (h : c → WritesOrRaises i s r)
    (h' : ¬c → WritesOrRaises i s r') : WritesOrRaises i s (if c then r else r') := by
  split
  next hc => exact h hc
  next hc => exact h' hc

theorem WritesOrRaises.map {α : Type} {r : Except CmdError α} {f : α → State}
    (h : ∀ a, r = .ok a → CommandWrite i s (f a)) : WritesOrRaises i s (r.map f) := by
  cases r with
  | error e => exact .error e
  | ok a => exact .ok (h a rfl)

/-- Every command is the completion of pseudocode that writes only what the command's rule names, or raises. -/
theorem exec_eq_conclude_write (i : Instr) (s : State) : ∃ r, exec i s = s.conclude r ∧ WritesOrRaises i s r := by
  cases i with
  | fadd | fsub | fmul | fneg => exact ⟨_, rfl, .ok (.reg rfl _)⟩
  | finv => exact ⟨_, rfl, .ite (fun _ => .error _) fun _ => .ok (.reg rfl _)⟩
  | pdbl | padd | pmul => exact ⟨_, rfl, .ok (.point rfl _)⟩
  | pchk => exact ⟨_, rfl, .ok (.onc rfl _)⟩
  | pmulg => exact ⟨_, rfl, .ite (fun _ => .ok (.point rfl _)) fun _ => .error _⟩
  | schk => exact ⟨_, rfl, .ite (fun _ => .ok .nothing) fun _ => .error _⟩
  | serc => exact ⟨_, rfl, .map fun _ h => .string rfl (length_compress h ▸ by decide)⟩
  | seru => exact ⟨_, rfl, .map fun _ h => .string rfl (length_uncompressed h ▸ by decide)⟩
  | sha256 => exact ⟨_, rfl, .ok (.string rfl (length_sha256 _ ▸ by decide))⟩
  | rmd160 => exact ⟨_, rfl, .ok (.string rfl (length_ripemd160 _ ▸ by decide))⟩
  | hash160 => exact ⟨_, rfl, .ok (.string rfl (length_hash160 _ ▸ by decide))⟩
  | b58enc => exact ⟨_, rfl, .map fun _ h => .string rfl (length_le_of_fitBuffer h)⟩
  | b58dec bd bs1 =>
    refine ⟨_, rfl, .map fun d hd => .verAndBuf rfl d.1 fun hs => Buffer.ok_ofBytes ?_⟩
    calc d.2.length ≤ (s.contents bs1).length := length_payload_le hd
      _ = (s.buf bs1.toNat).len := Buffer.length_bytes _
      _ ≤ Config.bufCap := (hs _).1
  | r2b => exact ⟨_, rfl, .ok (.string rfl (length_be _ _ ▸ by decide))⟩
  | b2r => exact ⟨_, rfl, .ite (fun _ => .error _) fun _ => .ok (.reg rfl _)⟩
  | bapp =>
    exact ⟨_, rfl, .ite (fun _ => .error _) fun hfull => .ok (.buf rfl fun hs => Buffer.ok_append (hs _) hfull _)⟩

/-- What a command can do: complete with what its rule names written, or raise an error. -/
theorem exec_cases (h : exec i s = .next t) :
    (∃ u, CommandWrite i s u ∧ t = u.finish) ∨ ∃ e, t = s.raise e := by
  obtain ⟨r, hr, hwrite⟩ := exec_eq_conclude_write i s
  rw [hr, State.conclude_eq_next_iff] at h
  obtain ⟨u, hu, rfl⟩ | ⟨e, -, rfl⟩ := h
  · exact .inl ⟨u, hwrite u hu, rfl⟩
  · exact .inr ⟨e, rfl⟩

/-! ### What a command leaves unchanged -/

/-- The frame of a command: all data but its destination, ONC but for PCHK, VER but for B58DEC, the host's side. -/
def CommandFrame (i : Instr) (s t : State) : Prop :=
  (∀ j, (∀ d, writesReg i = some d → d.toNat ≠ j) → t.reg j = s.reg j) ∧
  (∀ j, (∀ d, writesPoint i = some d → d.toNat ≠ j) → t.point j = s.point j) ∧
  (∀ k, (∀ d, writesBuf i = some d → d.toNat ≠ k) → SameBuf s t k) ∧
  ((∀ ps, i ≠ .pchk ps) → t.onc = s.onc) ∧
  ((∀ bd bs, i ≠ .b58dec bd bs) → t.ver = s.ver) ∧
  SameHostSide s t

theorem sameBuf_of_buf_eq {k : Nat} (h : t.buf k = s.buf k) : SameBuf s t k := by
  simp [SameBuf, State.readByte, h]

theorem CommandWrite.reg_eq (h : CommandWrite i s u) {j : Nat} (hj : ∀ d, writesReg i = some d → d.toNat ≠ j) :
    u.reg j = s.reg j := by
  cases h with
  | reg hd v => exact State.reg_setReg_ne s (hj _ hd) v
  | nothing | point | buf | onc | verAndBuf => rfl

theorem CommandWrite.point_eq (h : CommandWrite i s u) {j : Nat}
    (hj : ∀ d, writesPoint i = some d → d.toNat ≠ j) : u.point j = s.point j := by
  cases h with
  | point hd v => exact State.point_setPoint_ne s (hj _ hd) v
  | nothing | reg | buf | onc | verAndBuf => rfl

theorem CommandWrite.buf_eq (h : CommandWrite i s u) {k : Nat} (hk : ∀ d, writesBuf i = some d → d.toNat ≠ k) :
    u.buf k = s.buf k := by
  cases h with
  | buf hd => exact State.buf_setBuf_ne s (hk _ hd) _
  | verAndBuf hi v =>
    subst hi
    exact State.buf_setBuf_ne (s.setVer v) (hk _ rfl) _
  | nothing | reg | point | onc => rfl

theorem CommandWrite.onc_eq (h : CommandWrite i s u) (hi : ∀ ps, i ≠ .pchk ps) : u.onc = s.onc := by
  cases h with
  | onc hps => exact absurd hps (hi _)
  | nothing | reg | point | buf | verAndBuf => rfl

theorem CommandWrite.ver_eq (h : CommandWrite i s u) (hi : ∀ bd bs, i ≠ .b58dec bd bs) : u.ver = s.ver := by
  cases h with
  | verAndBuf hdec => exact absurd hdec (hi _ _)
  | nothing | reg | point | buf | onc => rfl

theorem CommandWrite.sameHostSide (h : CommandWrite i s u) : SameHostSide s u := by
  cases h <;> exact ⟨rfl, rfl, rfl, rfl⟩

theorem CommandWrite.frame (h : CommandWrite i s u) : CommandFrame i s u :=
  ⟨fun _ => h.reg_eq, fun _ => h.point_eq, fun _ hk => sameBuf_of_buf_eq (h.buf_eq hk), h.onc_eq, h.ver_eq,
    h.sameHostSide⟩

/-- Completion is outside what `CommandFrame` speaks of. -/
theorem CommandFrame.finish (h : CommandFrame i s u) : CommandFrame i s u.finish := h

theorem CommandFrame.raise (h : CommandFrame i s u) (e : CmdError) : CommandFrame i s (u.raise e) := h

end Writes

/-- Settles O14: by what a command can do; one that raises an error is framed as one that writes nothing. -/
theorem commandsWriteOnlyWhatTheirRuleNames : Obligations.CommandsWriteOnlyWhatTheirRuleNames := by
  intro i s t h
  obtain ⟨u, hwrite, rfl⟩ | ⟨e, rfl⟩ := exec_cases h
  · exact hwrite.frame.finish
  · exact CommandWrite.nothing.frame.raise e

end Sys2Proof.Machine
end

section
/-! PROOFS. The invariant (10_state.md R43): every operation that a step is made of keeps it, so every step does. -/

namespace Sys2Proof.Machine

/-! ### The invariant after each update -/

section Updates

variable {s t : State}

/-- An index that is out of range reads as the empty buffer, which is within capacity too (log 4). -/
theorem State.Inv.allBufsOk (h : s.Inv) : s.BufsOk := by
  intro k
  by_cases hk : k < Config.nBuf
  · exact h.bufsOk k hk
  · have hempty : s.buf k = ⟨0, []⟩ := by simp [State.buf, hk]
    rw [hempty]
    exact ⟨by decide, by decide⟩

theorem State.BufsOk.setBuf (h : s.BufsOk) {b : Buffer} (hb : b.Ok) (k : Nat) : (s.setBuf k b).BufsOk := by
  intro j
  by_cases hk : k < Config.nBuf
  · by_cases hkj : k = j
    · subst hkj
      rwa [State.buf_setBuf_self s hk]
    · rw [State.buf_setBuf_ne s hkj]
      exact h j
  · rw [State.setBuf_of_le s (Nat.le_of_not_lt hk)]
    exact h j

/-- An update that leaves BUSY, ERR and ERRCODE alone keeps the invariant if it keeps the buffers within capacity. -/
theorem State.Inv.of_sameLife (h : s.Inv) (hl : SameLife s t) (hb : t.BufsOk) : t.Inv := by
  obtain ⟨hbusy, herr, hcode⟩ := hl
  refine ⟨fun k _ => hb k, ?_, ?_, ?_⟩
  · rw [herr, hcode]; exact h.errIff
  · rw [hcode]; exact h.errcodeLe
  · rw [hbusy, herr, hcode]; exact h.busyClear

theorem State.Inv.setBuf (h : s.Inv) {b : Buffer} (hb : b.Ok) (k : Nat) : (s.setBuf k b).Inv :=
  h.of_sameLife ⟨rfl, rfl, rfl⟩ (h.allBufsOk.setBuf hb k)

/-- What the invariant says of BUSY, ERR and ERRCODE after a completion holds whatever they were before. -/
theorem State.BufsOk.inv_finish (h : s.BufsOk) : s.finish.Inv where
  bufsOk k _ := h k
  errIff := by simp
  errcodeLe := by simp
  busyClear := by simp

theorem State.BufsOk.inv_raise (h : s.BufsOk) (e : CmdError) : (s.raise e).Inv where
  bufsOk k _ := h k
  errIff := iff_of_true rfl e.number_ne_zero
  errcodeLe := e.number_range.2
  busyClear := by simp

theorem State.BufsOk.inv_issue (h : s.BufsOk) (w : Word32) : (s.issue w).Inv where
  bufsOk k _ := h k
  errIff := by simp
  errcodeLe := by simp
  busyClear := by simp

theorem State.Inv.setHaz (h : s.Inv) : s.setHaz.Inv := h.of_sameLife ⟨rfl, rfl, rfl⟩ h.allBufsOk

theorem State.Inv.respond (h : s.Inv) (w : Word32) : (s.respond w).Inv := h.of_sameLife ⟨rfl, rfl, rfl⟩ h.allBufsOk

theorem State.Inv.writeStatus (h : s.Inv) (v : Word32) : (s.writeStatus v).Inv := by
  unfold State.writeStatus
  split
  · exact h.of_sameLife ⟨rfl, rfl, rfl⟩ h.allBufsOk
  · exact h

/-! ### The invariant after a command -/

theorem CommandWrite.bufsOk {i : Instr} (h : CommandWrite i s t) (hs : s.BufsOk) : t.BufsOk := by
  cases h with
  | buf hd hb => exact hs.setBuf (hb hs) _
  | verAndBuf hi v hb =>
    have hver : (s.setVer v).BufsOk := hs
    exact hver.setBuf (hb hs) _
  | nothing | reg | point | onc => exact hs

theorem State.Inv.exec {i : Instr} (h : s.Inv) (he : exec i s = .next t) : t.Inv := by
  obtain ⟨u, hwrite, rfl⟩ | ⟨e, rfl⟩ := exec_cases he
  · exact (hwrite.bufsOk h.allBufsOk).inv_finish
  · exact h.allBufsOk.inv_raise e

theorem State.Inv.engineTurn (h : s.Inv) (ht : s.engineTurn = .next t) : t.Inv := by
  cases hbusy : s.busy with
  | false =>
    rw [State.engineTurn_of_idle hbusy] at ht
    cases ht
    exact h
  | true =>
    have hcomplete : s.complete = .next t := by simpa [State.engineTurn, hbusy] using ht
    obtain ⟨e, -, heq⟩ | ⟨i, -, heq⟩ := s.complete_eq
    · cases heq.symm.trans hcomplete
      exact h.allBufsOk.inv_raise _
    · exact h.exec (heq.symm.trans hcomplete)

/-! ### The invariant after a host access or reset -/

/-- A word of a buffer's window lies within the buffer's capacity (20_memory.md R74). -/
theorem word_lt_of_locate_eq_bdata {off k w : Nat} (h : locate off = .bdata k w) : w < 32 := by
  simp only [locate, ite_eq_iff, reduceCtorEq, and_false, false_or, or_false, Location.bdata.injEq] at h
  omega

theorem State.Inv.writeLocation (h : s.Inv) (off : Nat) (v : Word32) : (s.writeLocation v (locate off)).Inv := by
  cases hl : locate off with
  | cmd => exact h.allBufsOk.inv_issue v
  | status => exact h.writeStatus v
  | blen k =>
    simp only [State.writeLocation]
    split
    next hv =>
      have hb : Buffer.Ok ⟨v.toNat, (s.buf k).data⟩ := ⟨hv, (h.allBufsOk k).2⟩
      exact h.setBuf hb k
    next => exact h.setHaz
  | reg | px | py | pinf => exact h.of_sameLife ⟨rfl, rfl, rfl⟩ h.allBufsOk
  | bdata k w =>
    have hw : w < 32 := word_lt_of_locate_eq_bdata hl
    have hfits : 4 * w + (le v.toNat 4).length ≤ Config.bufCap := by
      rw [length_le, Config.bufCap]
      omega
    obtain ⟨hlen, hdata⟩ := h.allBufsOk k
    have hb : Buffer.Ok ⟨(s.buf k).len, (s.buf k).data.writeBytes (4 * w) (le v.toNat 4)⟩ :=
      ⟨hlen, Memory.wf_writeBytes hdata _ hfits⟩
    exact h.setBuf hb k
  | id | errcode | ver | constant | reserved => exact h

theorem State.Inv.hostWrite (h : s.Inv) (off : Nat) (v : Word32) : (s.hostWrite (locate off) v).Inv := by
  obtain ⟨-, -, heq⟩ | ⟨-, -, heq⟩ | ⟨-, heq⟩ := s.hostWrite_cases (locate off) v
  · rwa [heq]
  · rw [heq]; exact h.setHaz
  · rw [heq]; exact h.writeLocation off v

theorem State.Inv.hostRead (h : s.Inv) (l : Location) : (s.hostRead l).2.Inv := by
  obtain ⟨-, -, heq⟩ | ⟨-, heq⟩ := s.hostRead_cases l
  · rw [heq]; exact h.setHaz
  · rwa [heq]

theorem State.Inv.event (h : s.Inv) {e : Event} (he : s.event e = .next t) : t.Inv := by
  cases e with
  | write off v =>
    obtain ⟨-, -, rfl⟩ := (atOffset_eq_next_iff off (fun l => s.hostWrite l v) t).1 he
    exact h.hostWrite off v
  | read off =>
    obtain ⟨-, -, rfl⟩ := (atOffset_eq_next_iff off (fun l => (s.hostRead l).2.respond (s.hostRead l).1) t).1 he
    exact (h.hostRead _).respond _
  | otherWidth => cases he
  | engine => exact h.engineTurn he
  | reset =>
    cases he
    exact resetMeetsInvariant.of_sameLife ⟨rfl, rfl, rfl⟩ resetMeetsInvariant.allBufsOk

end Updates

/-- Settles O9: a step is the engine's turn or an event, and each keeps the invariant. -/
theorem stepKeepsInvariant : Obligations.StepKeepsInvariant := by
  intro s t h hstep
  unfold step at hstep
  split at hstep
  next => exact h.engineTurn hstep
  next e es _ =>
    have htaken : State.Inv { s with inputs := es } := h.of_sameLife ⟨rfl, rfl, rfl⟩ h.allBufsOk
    exact htaken.event hstep

end Sys2Proof.Machine
end

section
/-! PROOFS. The host accesses that have a step (20_memory.md R64; 93_implementation_defined.md I11). -/

namespace Sys2Proof.Machine

/-- A command always completes (60_exceptions.md R310, R345), so the engine's turn never stops the machine. -/
theorem State.exists_engineTurn_eq_next (s : State) : ∃ t, s.engineTurn = .next t := by
  cases hbusy : s.busy with
  | false => exact ⟨s, State.engineTurn_of_idle hbusy⟩
  | true =>
    have hturn : s.engineTurn = s.complete := by simp [State.engineTurn, hbusy]
    rw [hturn]
    obtain ⟨e, -, hillegal⟩ | ⟨i, -, hlegal⟩ := s.complete_eq
    · exact ⟨_, hillegal⟩
    · obtain ⟨r, hr⟩ := exec_eq_conclude i s
      exact ⟨_, hlegal.trans hr⟩

theorem exists_atOffset_eq_next_iff (off : Nat) (access : Location → State) :
    (∃ t, atOffset off access = .next t) ↔ off < Config.windowSize ∧ off % 4 = 0 := by
  simp only [atOffset_eq_next_iff, exists_and_left, exists_eq, and_true]

/-- An event has a step exactly when a platform may present it (R64). -/
theorem State.exists_event_eq_next_iff (s : State) (e : Event) :
    (∃ t, s.event e = .next t) ↔ e.allowed = true := by
  cases e with
  | write off v =>
    rw [Event.allowed, decide_eq_true_iff]
    exact exists_atOffset_eq_next_iff off fun l => s.hostWrite l v
  | read off =>
    rw [Event.allowed, decide_eq_true_iff]
    exact exists_atOffset_eq_next_iff off fun l => (s.hostRead l).2.respond (s.hostRead l).1
  | otherWidth => simp [State.event, Event.allowed]
  | engine => exact iff_of_true s.exists_engineTurn_eq_next rfl
  | reset => exact iff_of_true ⟨_, rfl⟩ rfl

theorem exists_step_eq_next_iff (s : State) :
    (∃ t, step s = .next t) ↔ ∀ e es, s.inputs = e :: es → e.allowed = true := by
  unfold step
  split
  next hnone => exact iff_of_true s.exists_engineTurn_eq_next fun e es h => by simp [hnone] at h
  next e es hhead =>
    rw [State.exists_event_eq_next_iff, hhead]
    constructor
    · rintro hallowed _ _ ⟨⟩
      exact hallowed
    · exact fun h => h e es rfl

theorem atOffset_of_outside {off : Nat} (h : Config.windowSize ≤ off) (access : Location → State) :
    atOffset off access = .fault (.outsideWindow off) := if_pos h

theorem atOffset_of_misaligned {off : Nat} (h : off < Config.windowSize) (halign : off % 4 ≠ 0)
    (access : Location → State) : atOffset off access = .refused (.misalignedAccess off) := by
  rw [atOffset, if_neg (Nat.not_le.2 h), if_pos halign]

/-- Settles O10: the events that have a step, then the name of each stop (log 6). -/
theorem stepStopsOnlyAtForbiddenAccess : Obligations.StepStopsOnlyAtForbiddenAccess :=
  ⟨exists_step_eq_next_iff,
    fun s _ v h => ⟨atOffset_of_outside h fun l => (s.hostRead l).2.respond (s.hostRead l).1,
      atOffset_of_outside h fun l => s.hostWrite l v⟩,
    fun s _ v h halign => ⟨atOffset_of_misaligned h halign fun l => (s.hostRead l).2.respond (s.hostRead l).1,
      atOffset_of_misaligned h halign fun l => s.hostWrite l v⟩,
    fun _ _ _ => rfl⟩

end Sys2Proof.Machine
end

section
/-! PROOFS. The register map by its offsets (20_memory.md R70): the location at each offset that R70 names, and the
offsets of the locations that R71, R73, R76 and R35 single out. -/

namespace Sys2Proof.Machine

/-! ### The location at a named offset -/

section Named

variable {i j k w : Nat}

theorem mapsTo_blen (hk : k < 4) : MapsTo (0x020 + 4 * k) (.blen k) := by
  refine ⟨show _ < 0x800 by omega, by omega, ?_⟩
  simp (disch := omega) only [locate, if_neg, if_pos, Location.blen.injEq]
  omega

theorem mapsTo_reg (hi : i < 8) (hj : j < 8) : MapsTo (0x100 + 0x20 * i + 4 * j) (.reg i j) := by
  refine ⟨show _ < 0x800 by omega, by omega, ?_⟩
  simp (disch := omega) only [locate, if_neg, if_pos, Location.reg.injEq]
  omega

theorem mapsTo_px (hi : i < 4) (hj : j < 8) : MapsTo (0x200 + 0x80 * i + 4 * j) (.px i j) := by
  refine ⟨show _ < 0x800 by omega, by omega, ?_⟩
  simp (disch := omega) only [locate, if_neg, if_pos, Location.px.injEq]
  omega

theorem mapsTo_py (hi : i < 4) (hj : j < 8) : MapsTo (0x220 + 0x80 * i + 4 * j) (.py i j) := by
  refine ⟨show _ < 0x800 by omega, by omega, ?_⟩
  simp (disch := omega) only [locate, if_neg, if_pos, Location.py.injEq]
  omega

theorem mapsTo_pinf (hi : i < 4) : MapsTo (0x240 + 0x80 * i) (.pinf i) := by
  refine ⟨show _ < 0x800 by omega, by omega, ?_⟩
  simp (disch := omega) only [locate, if_neg, if_pos, Location.pinf.injEq]
  omega

theorem mapsTo_bdata (hk : k < 4) (hw : w < 32) : MapsTo (0x400 + 0x80 * k + 4 * w) (.bdata k w) := by
  refine ⟨show _ < 0x800 by omega, by omega, ?_⟩
  simp (disch := omega) only [locate, if_neg, if_pos, Location.bdata.injEq]
  omega

/-- The four 256-bit constants of the constant window (R75). -/
theorem mapsTo_constants (hj : j < 8) :
    MapsTo (0x600 + 4 * j) (.constant (constWord Config.p j)) ∧
    MapsTo (0x620 + 4 * j) (.constant (constWord Config.n j)) ∧
    MapsTo (0x640 + 4 * j) (.constant (constWord Config.gx j)) ∧
    MapsTo (0x660 + 4 * j) (.constant (constWord Config.gy j)) := by
  have word (base : Nat) (h : base % 0x20 = 0) : (base + 4 * j) % 0x20 / 4 = j := by omega
  refine ⟨?_, ?_, ?_, ?_⟩ <;>
  · refine ⟨show _ < 0x800 by omega, by omega, ?_⟩
    simp (disch := omega) only [locate, if_neg, if_pos, word]

theorem mapsTo_bconst : MapsTo 0x680 (.constant 7) := ⟨by decide, rfl, rfl⟩

end Named

/-! ### The offsets of a kind of location -/

section Kinds

variable {off : Nat}

theorem locate_eq_reserved_iff (hoff : off < 0x800) (halign : off % 4 = 0) :
    locate off = .reserved ↔ reservedOffset off = true := by
  simp only [locate, reservedOffset, ite_eq_iff, reduceCtorEq, and_false, and_true, false_or, decide_eq_true_eq]
  omega

theorem refusesReadWhileBusy_locate_iff (hoff : off < 0x800) (halign : off % 4 = 0) :
    (locate off).refusesReadWhileBusy = true ↔ dataOffset off = true := by
  simp only [locate, apply_ite Location.refusesReadWhileBusy, ite_eq_iff]
  simp only [Location.refusesReadWhileBusy, dataOffset, reduceCtorEq, and_false, and_true, false_or, or_false,
    decide_eq_true_eq]
  omega

theorem exists_locate_eq_blen_iff (halign : off % 4 = 0) :
    (∃ k, locate off = .blen k) ↔ 0x020 ≤ off ∧ off ≤ 0x02C := by
  simp only [locate, ite_eq_iff, reduceCtorEq, and_false, false_or, or_false, Location.blen.injEq, exists_and_left,
    exists_eq', and_true]
  omega

theorem locate_eq_status_iff : locate off = .status ↔ off = 0x008 := by
  simp only [locate, ite_eq_iff, reduceCtorEq, and_false, false_or, or_false, and_true]
  omega

theorem exists_locate_eq_constant (hlow : 0x600 ≤ off) (hhigh : off ≤ 0x680) : ∃ c, locate off = .constant c := by
  obtain hlt | rfl : off < 0x680 ∨ off = 0x680 := by omega
  · simp (disch := omega) only [locate, if_neg, if_pos]
    split_ifs <;> exact ⟨_, rfl⟩
  · exact ⟨_, rfl⟩

end Kinds

end Sys2Proof.Machine
end

section
/-! PROOFS. Words of 256-bit quantities and of buffers (00_scope.md R16; 20_memory.md R63): what a slice reads after a
word is replaced, and the four bytes of a buffer's word. -/

namespace Sys2Proof.Machine

/-! ### 32-bit words of a 256-bit quantity -/

/-- Each bit of the quantity with word `j` replaced: the new word's inside the slice, the old one outside. -/
theorem getLsbD_withWord (x : Word256) (j : Nat) (v : Word32) {b : Nat} (hb : b < 256) :
    (withWord x j v).getLsbD b = if 32 * j ≤ b ∧ b < 32 * j + 32 then v.getLsbD (b - 32 * j) else x.getLsbD b := by
  simp only [withWord, BitVec.getLsbD_or, BitVec.getLsbD_and, BitVec.getLsbD_not, BitVec.getLsbD_shiftLeft,
    BitVec.getLsbD_setWidth, BitVec.getLsbD_allOnes, hb, decide_true, Bool.true_and]
  have hshift : b - 32 * j < 256 := by omega
  split
  next hin =>
    have hfrom : ¬b < 32 * j := by omega
    have hword : b - 32 * j < 32 := by omega
    simp [hfrom, hword, hshift]
  next hout =>
    obtain hlow | hhigh : b < 32 * j ∨ 32 ≤ b - 32 * j := by omega
    · simp [hlow]
    · simp [Nat.not_lt.2 hhigh, BitVec.getLsbD_of_ge v _ hhigh]

/-- The words of a 256-bit quantity are independent (R72). -/
theorem extractLsb'_withWord (x : Word256) (v : Word32) {j k : Nat} (hk : k < 8) :
    (withWord x j v).extractLsb' (32 * k) 32 = if k = j then v else x.extractLsb' (32 * k) 32 := by
  apply BitVec.eq_of_getLsbD_eq
  intro b hb
  rw [BitVec.getLsbD_extractLsb', getLsbD_withWord x j v (by omega)]
  by_cases hkj : k = j
  · subst hkj
    rw [if_pos (by omega), if_pos rfl, Nat.add_sub_cancel_left, decide_eq_true hb, Bool.true_and]
  · rw [if_neg (by omega), if_neg hkj, BitVec.getLsbD_extractLsb']

/-- A word of a constant, as a quotient. -/
theorem constWord_eq (v : Nat) {j : Nat} (hj : j < 8) : constWord v j = BitVec.ofNat 32 (v / 2 ^ (32 * j)) := by
  apply BitVec.eq_of_getLsbD_eq
  intro b hb
  have hbit : 32 * j + b < 256 := by omega
  simp only [constWord, wordOf, BitVec.getLsbD_extractLsb', BitVec.getLsbD_ofNat, Nat.testBit_div_two_pow, hb, hbit,
    Nat.add_comm b, decide_true, Bool.true_and]

/-! ### The four bytes of a word -/

/-- The word of four bytes, least significant first, as a sum. -/
theorem le32_eq (a b c d : Byte) :
    le32 [a, b, c, d] = BitVec.ofNat 32 (a.toNat + 256 * b.toNat + 65536 * c.toNat + 16777216 * d.toNat) := by
  have toNat_append {m n : Nat} (x : BitVec m) (y : BitVec n) : (x ++ y).toNat = x.toNat * 2 ^ n + y.toNat := by
    rw [BitVec.toNat_append, ← Nat.shiftLeft_add_eq_or_of_lt y.isLt, Nat.shiftLeft_eq]
  apply BitVec.eq_of_toNat_eq
  simp only [le32, List.getD_cons_zero, List.getD_cons_succ, toNat_append, BitVec.toNat_ofNat]
  have := a.isLt; have := b.isLt; have := c.isLt; have := d.isLt
  omega

theorem getD_le (v : Word32) {k b : Nat} (hb : b < k) : (le v.toNat k).getD b 0 = v.extractLsb' (8 * b) 8 := by
  apply BitVec.eq_of_toNat_eq
  simp [le, hb, Nat.shiftRight_eq_div_pow, Nat.pow_mul]

/-- The four bytes of memory from an address on, as a host reads them. -/
theorem le32_readBytes (m : Memory) (a : Nat) :
    le32 (m.readBytes a 4) = BitVec.ofNat 32 ((m.read a).toNat + 256 * (m.read (a + 1)).toNat +
      65536 * (m.read (a + 2)).toNat + 16777216 * (m.read (a + 3)).toNat) :=
  le32_eq _ _ _ _

/-- A read after the write of a byte string (00_scope.md R18). -/
theorem Memory.read_writeBytes (str : Bytes) {m : Memory} (hs : m.Pairwise fun c d => c.1 < d.1) (a b : Nat) :
    (m.writeBytes a str).read b = if a ≤ b ∧ b < a + str.length then str.getD (b - a) 0 else m.read b := by
  induction str generalizing m a with
  | nil =>
    rw [if_neg (by simp only [List.length_nil]; omega)]
    rfl
  | cons v str ih =>
    rw [Memory.writeBytes, ih (Memory.pairwise_write hs a v), Memory.read_write m hs, List.length_cons]
    obtain hlt | rfl | hgt := Nat.lt_trichotomy a b
    · obtain ⟨d, rfl⟩ : ∃ d, b = a + 1 + d := ⟨b - (a + 1), by omega⟩
      have hd : a + 1 + d - a = d + 1 := by omega
      have hne : a + 1 + d ≠ a := by omega
      simp only [hd, hne, Nat.add_sub_cancel_left, List.getD_cons_succ, if_false]
      exact if_congr (by omega) rfl rfl
    · simp
    · rw [if_neg (by omega), if_neg (by omega), if_neg (by omega)]

end Sys2Proof.Machine
end

section
/-! PROOFS. The data windows of the host port: registers, point registers, buffers (20_memory.md R72, R73, R74, R77). -/

namespace Sys2Proof.Machine

/-! ### What the write of one datum leaves unchanged -/

theorem State.setReg_frame (s : State) (i : Nat) (x : Word256) :
    (∀ m, m ≠ i → (s.setReg i x).reg m = s.reg m) ∧ SamePoints s (s.setReg i x) ∧ SameBufs s (s.setReg i x) ∧
    SameControl s (s.setReg i x) ∧ SameLife s (s.setReg i x) :=
  ⟨fun _ hm => s.reg_setReg_ne hm.symm x, fun _ => rfl, fun _ => ⟨rfl, fun _ => rfl⟩,
    ⟨⟨rfl, rfl, rfl, rfl⟩, rfl, rfl⟩, rfl, rfl, rfl⟩

theorem State.setPoint_frame (s : State) (i : Nat) (x : PointReg) :
    (∀ m, m ≠ i → (s.setPoint i x).point m = s.point m) ∧ SameRegs s (s.setPoint i x) ∧
    SameBufs s (s.setPoint i x) ∧ SameControl s (s.setPoint i x) ∧ SameLife s (s.setPoint i x) :=
  ⟨fun _ hm => s.point_setPoint_ne hm.symm x, fun _ => rfl, fun _ => ⟨rfl, fun _ => rfl⟩,
    ⟨⟨rfl, rfl, rfl, rfl⟩, rfl, rfl⟩, rfl, rfl, rfl⟩

theorem State.setBuf_frame (s : State) (k : Nat) (b : Buffer) :
    (∀ m, m ≠ k → SameBuf s (s.setBuf k b) m) ∧ SameRegs s (s.setBuf k b) ∧ SamePoints s (s.setBuf k b) ∧
    SameControl s (s.setBuf k b) ∧ SameLife s (s.setBuf k b) :=
  ⟨fun _ hm => sameBuf_of_buf_eq (s.buf_setBuf_ne hm.symm b), fun _ => rfl, fun _ => rfl,
    ⟨⟨rfl, rfl, rfl, rfl⟩, rfl, rfl⟩, rfl, rfl, rfl⟩

/-! ### Accesses to a data location -/

section Accesses

variable {s : State} {off : Nat} {l : Location}

/-- While BUSY = 0 every read is served (R76). -/
theorem MapsTo.readServed_of_idle (h : MapsTo off l) (hidle : s.busy = false) :
    ReadServed s off (s.readLocation l) :=
  h.readServed fun hbusy => absurd hbusy (by simp [hidle])

/-- A location that refuses reads while BUSY = 1 refuses writes too (R76). -/
theorem MapsTo.refused_of_busy (h : MapsTo off l) (hbusy : s.busy = true) (hl : l.refusesReadWhileBusy = true)
    (v : Word32) : ReadRefused s off ∧ WriteRefused s off v := by
  have hne : l ≠ .reserved := by rintro rfl; cases hl
  exact ⟨h.readRefused hbusy hl, h.writeRefused hbusy hne v⟩

end Accesses

/-! ### The registers -/

/-- Settles O51: the location of the offset is word `j` of `r[i]`, and the words of a register are independent. -/
theorem registerWindow : Obligations.RegisterWindow := by
  rintro s i j _ v hi hj rfl
  have hmap := mapsTo_reg hi hj
  refine ⟨fun hidle => ⟨hmap.readServed_of_idle hidle, _, hmap.eventWrite_of_idle hidle v, fun k hk => ?_,
    s.setReg_frame i _⟩, fun hbusy => hmap.refused_of_busy hbusy rfl v⟩
  have hreg : (s.writeLocation v (.reg i j)).reg i = withWord (s.reg i) j v := s.reg_setReg_self hi _
  rw [hreg]
  exact extractLsb'_withWord _ v hk

/-! ### The point registers -/

/-- PINF reads as its bit (R77). -/
theorem State.readLocation_pinf (s : State) (i : Nat) :
    s.readLocation (.pinf i) = if (s.point i).inf then 1 else 0 := by
  cases h : (s.point i).inf <;> simp [State.readLocation, h]

/-- Settles O52: a write to PX, PY or PINF replaces one field of `P[i]` and writes the other two back. -/
theorem pointWindow : Obligations.PointWindow := by
  intro s i j v hi hj
  have hpx := mapsTo_px hi hj
  have hpy := mapsTo_py hi hj
  have hpinf := mapsTo_pinf hi
  refine ⟨fun hidle => ⟨hpx.readServed_of_idle hidle, hpy.readServed_of_idle hidle, ?_, ?_, ?_, ?_⟩, ?_⟩
  · rw [← s.readLocation_pinf]
    exact hpinf.readServed_of_idle hidle
  · have hpoint : (s.writeLocation v (.px i j)).point i =
        ⟨(s.point i).inf, withWord (s.point i).x j v, (s.point i).y⟩ := s.point_setPoint_self hi _
    refine ⟨_, hpx.eventWrite_of_idle hidle v, fun k hk => ?_, ?_, ?_, s.setPoint_frame i _⟩ <;> rw [hpoint]
    exact extractLsb'_withWord _ v hk
  · have hpoint : (s.writeLocation v (.py i j)).point i =
        ⟨(s.point i).inf, (s.point i).x, withWord (s.point i).y j v⟩ := s.point_setPoint_self hi _
    refine ⟨_, hpy.eventWrite_of_idle hidle v, fun k hk => ?_, ?_, ?_, s.setPoint_frame i _⟩ <;> rw [hpoint]
    exact extractLsb'_withWord _ v hk
  · have hpoint : (s.writeLocation v (.pinf i)).point i = ⟨v.getLsbD 0, (s.point i).x, (s.point i).y⟩ :=
      s.point_setPoint_self hi _
    refine ⟨_, hpinf.eventWrite_of_idle hidle v, ?_, ?_, ?_, s.setPoint_frame i _⟩ <;> rw [hpoint]
  · rintro hbusy _ (rfl | rfl | rfl)
    · exact hpx.refused_of_busy hbusy rfl v
    · exact hpy.refused_of_busy hbusy rfl v
    · exact hpinf.refused_of_busy hbusy rfl v

/-! ### The buffers -/

/-- A BLEN write of at most BUFCAP (R73). -/
theorem State.writeLocation_blen_of_le (s : State) {v : Word32} (hv : v.toNat ≤ Config.bufCap) (k : Nat) :
    s.writeLocation v (.blen k) = s.setBuf k ⟨v.toNat, (s.buf k).data⟩ := if_pos hv

/-- A BLEN write above BUFCAP (R73). -/
theorem State.writeLocation_blen_of_lt (s : State) {v : Word32} (hv : Config.bufCap < v.toNat) (k : Nat) :
    s.writeLocation v (.blen k) = s.setHaz := if_neg (Nat.not_le.2 hv)

/-- Settles O53: BLEN and the data window write the two fields of a buffer, each with the other written back; the
canonical form makes the bytes read back as written. -/
theorem bufferWindow : Obligations.BufferWindow := by
  rintro s k w v hk hw ⟨-, hsorted, -⟩
  have hblen := mapsTo_blen hk
  have hbdata := mapsTo_bdata hk hw
  refine ⟨fun hidle => ⟨hblen.readServed_of_idle hidle, ?_, fun hv => ?_, fun hv => ?_, ?_⟩, fun hbusy => ?_⟩
  · have hread := hbdata.readServed_of_idle hidle
    rwa [State.readLocation, le32_readBytes] at hread
  · have hbuf : (s.setBuf k ⟨v.toNat, (s.buf k).data⟩).buf k = ⟨v.toNat, (s.buf k).data⟩ := s.buf_setBuf_self hk _
    refine ⟨s.setBuf k ⟨v.toNat, (s.buf k).data⟩, ?_, ?_, fun a => ?_, s.setBuf_frame k _⟩
    · rw [hblen.eventWrite_of_idle hidle, s.writeLocation_blen_of_le hv]
    · rw [hbuf]
    · rw [State.readByte, hbuf, State.readByte]
  · unfold WriteRefused
    rw [hblen.eventWrite_of_idle hidle, s.writeLocation_blen_of_lt hv]
    rfl
  · have hbuf : (s.writeLocation v (.bdata k w)).buf k =
        ⟨(s.buf k).len, (s.buf k).data.writeBytes (4 * w) (le v.toNat 4)⟩ := s.buf_setBuf_self hk _
    have hbyte (a : Nat) : (s.writeLocation v (.bdata k w)).readByte k a =
        if 4 * w ≤ a ∧ a < 4 * w + 4 then (le v.toNat 4).getD (a - 4 * w) 0 else s.readByte k a := by
      rw [State.readByte, hbuf, Memory.read_writeBytes _ hsorted, length_le, State.readByte]
    refine ⟨_, hbdata.eventWrite_of_idle hidle v, ?_, fun b hb => ?_, fun a ha => ?_, s.setBuf_frame k _⟩
    · rw [hbuf]
    · rw [hbyte, if_pos (by omega), Nat.add_sub_cancel_left, getD_le v hb]
    · rw [hbyte, if_neg (by omega)]
  · obtain ⟨hlenRead, hlenWrite⟩ := hblen.refused_of_busy hbusy rfl v
    exact ⟨hlenRead, hlenWrite, hbdata.refused_of_busy hbusy rfl v⟩

end Sys2Proof.Machine
end

section
/-! PROOFS. Refused accesses and HAZ (20_memory.md R73, R76; 10_state.md R35). -/

namespace Sys2Proof.Machine

/-! ### HAZ -/

section Haz

variable {s t : State} {off : Nat}

/-- An offset at which a host access has a step stands in the register map. -/
theorem mapsTo_of_atOffset_eq_next {access : Location → State} (h : atOffset off access = .next t) :
    MapsTo off (locate off) ∧ t = access (locate off) := by
  obtain ⟨hoff, halign, ht⟩ := (atOffset_eq_next_iff off access t).1 h
  exact ⟨⟨hoff, halign, rfl⟩, ht⟩

/-- HAZ after a write while BUSY = 0: set by a BLEN write above BUFCAP, cleared by a STATUS write with bit 2 set. -/
theorem State.haz_writeLocation_iff (s : State) (v : Word32) (l : Location) :
    (s.writeLocation v l).haz = true ↔
      ((∃ k, l = .blen k) ∧ Config.bufCap < v.toNat) ∨ (s.haz = true ∧ ¬(l = .status ∧ v.getLsbD 2 = true)) := by
  cases l with
  | blen k =>
    by_cases hv : v.toNat ≤ Config.bufCap
    · simp [s.writeLocation_blen_of_le hv, Nat.not_lt.2 hv]
    · simp [s.writeLocation_blen_of_lt (Nat.not_le.1 hv), Nat.not_le.1 hv]
  | status =>
    simp only [State.writeLocation, State.writeStatus, reduceCtorEq, exists_false, false_and, false_or, true_and]
    split
    next hv => simp only [hv, Bool.false_eq_true, not_true, and_false]
    next hv => exact (and_iff_left hv).symm
  | _ => simp [State.writeLocation]

/-- No command and no idle turn of the engine changes HAZ (R76). -/
theorem State.haz_engineTurn (h : s.engineTurn = .next t) : t.haz = s.haz := by
  cases hbusy : s.busy with
  | false =>
    rw [State.engineTurn_of_idle hbusy] at h
    cases h
    rfl
  | true =>
    have hcomplete : s.complete = .next t := by simpa [State.engineTurn, hbusy] using h
    obtain ⟨e, -, heq⟩ | ⟨i, -, heq⟩ := s.complete_eq
    · cases heq.symm.trans hcomplete
      rfl
    · obtain ⟨-, -, -, -, -, hhaz, -⟩ := commandsWriteOnlyWhatTheirRuleNames i s t (heq.symm.trans hcomplete)
      exact hhaz

/-- A host write that clears HAZ. -/
theorem State.eventWrite_clears_haz {v : Word32} (hs : s.haz = true) (h : s.eventWrite off v = .next t)
    (ht : t.haz = false) : off = 0x008 ∧ v.getLsbD 2 = true ∧ s.busy = false := by
  obtain ⟨-, rfl⟩ := mapsTo_of_atOffset_eq_next h
  obtain ⟨-, -, hwrite⟩ | ⟨-, -, hwrite⟩ | ⟨hidle, hwrite⟩ := s.hostWrite_cases (locate off) v
  · simp [hwrite, hs] at ht
  · simp [hwrite] at ht
  · rw [hwrite, ← Bool.not_eq_true, State.haz_writeLocation_iff, not_or] at ht
    obtain ⟨-, hcleared⟩ := ht
    obtain ⟨hstatus, hv⟩ := not_not.1 fun hkept => hcleared ⟨hs, hkept⟩
    exact ⟨locate_eq_status_iff.1 hstatus, hv, hidle⟩

/-- No host read clears HAZ (R66). -/
theorem State.haz_eventRead (hs : s.haz = true) (h : s.eventRead off = .next t) : t.haz = true := by
  obtain ⟨-, rfl⟩ := mapsTo_of_atOffset_eq_next h
  obtain ⟨-, -, hread⟩ | ⟨-, hread⟩ := s.hostRead_cases (locate off)
  · simp [hread]
  · simp [hread, hs]

end Haz

/-! ### Refused accesses -/

/-- A reserved offset ignores writes, busy or not (R71). -/
theorem MapsTo.writeIgnored_of_reserved {off : Nat} (h : MapsTo off .reserved) (s : State) (v : Word32) :
    WriteIgnored s off v := by
  have hwrite : s.hostWrite .reserved v = s := by cases hb : s.busy <;> simp [State.hostWrite, State.writeLocation, hb]
  unfold WriteIgnored State.eventWrite
  rw [h.atOffset_eq, hwrite]

/-- While BUSY = 1, at every offset (R71, R76). -/
theorem accesses_of_busy {s : State} {off : Nat} (hoff : off < 0x800) (halign : off % 4 = 0) (hbusy : s.busy = true)
    (v : Word32) :
    (if reservedOffset off = true then WriteIgnored s off v else WriteRefused s off v) ∧
    (if dataOffset off = true then ReadRefused s off else ∃ w, ReadServed s off w) := by
  have hmap : MapsTo off (locate off) := ⟨hoff, halign, rfl⟩
  simp only [← locate_eq_reserved_iff hoff halign, ← refusesReadWhileBusy_locate_iff hoff halign]
  constructor
  · split
    next hreserved => exact MapsTo.writeIgnored_of_reserved ⟨hoff, halign, hreserved⟩ s v
    next hne => exact hmap.writeRefused hbusy hne v
  · split
    next hdata => exact hmap.readRefused hbusy hdata
    next hserved => exact ⟨_, hmap.readServed fun _ => Bool.eq_false_of_not_eq_true hserved⟩

/-- Settles O54: busy and idle accesses by the location of the offset; then HAZ after each kind of event. -/
theorem refusedAccesses : Obligations.RefusedAccesses := by
  refine ⟨fun s off v hoff halign hbusy => accesses_of_busy hoff halign hbusy v, fun s t off hidle h => ?_,
    fun s t off v hidle hs h => ?_, fun s t e hs h ht => ?_⟩
  · exact ⟨_, (mapsTo_of_atOffset_eq_next h).1.readServed_of_idle hidle⟩
  · obtain ⟨hmap, -⟩ := mapsTo_of_atOffset_eq_next h
    cases (hmap.eventWrite_of_idle hidle v).symm.trans h
    obtain ⟨-, halign, -⟩ := hmap
    rw [State.haz_writeLocation_iff, exists_locate_eq_blen_iff halign, and_assoc]
    simp [hs]
  · cases e with
    | write off v =>
      obtain ⟨rfl, hv, hidle⟩ := State.eventWrite_clears_haz hs h ht
      exact .inr ⟨v, rfl, hv, hidle⟩
    | read off => exact absurd (State.haz_eventRead hs h) (by simp [ht])
    | otherWidth => cases h
    | engine => exact absurd ((State.haz_engineTurn h).trans hs) (by simp [ht])
    | reset => exact .inl rfl

end Sys2Proof.Machine
end

section
/-! PROOFS. ID, the constant window and the reserved offsets (10_state.md R33; 20_memory.md R71, R75). -/

namespace Sys2Proof.Machine

/-- A word of the constant window reads as a quotient of its constant, busy or not (R75). -/
theorem MapsTo.readServed_constWord {off c j : Nat} (h : MapsTo off (.constant (constWord c j))) (hj : j < 8)
    (s : State) : ReadServed s off (BitVec.ofNat 32 (c / 2 ^ (32 * j))) := by
  rw [← constWord_eq c hj]
  exact h.readServed fun _ => rfl

/-- Settles O55: each of these words is at a location that no state changes and no write reaches. -/
theorem constantsAndReservedOffsets : Obligations.ConstantsAndReservedOffsets := by
  refine fun s v => ⟨mapsTo_id.readServed fun _ => rfl, fun j hj => ?_, mapsTo_bconst.readServed fun _ => rfl,
    fun off hoff halign hreserved => ?_,
    fun hidle => ⟨mapsTo_id.eventWrite_of_idle hidle v, fun off hlow hhigh halign => ?_⟩⟩
  · obtain ⟨hp, hn, hgx, hgy⟩ := mapsTo_constants hj
    exact ⟨hp.readServed_constWord hj s, hn.readServed_constWord hj s, hgx.readServed_constWord hj s,
      hgy.readServed_constWord hj s⟩
  · have hmap : MapsTo off .reserved := ⟨hoff, halign, (locate_eq_reserved_iff hoff halign).2 hreserved⟩
    exact ⟨hmap.readServed fun _ => rfl, hmap.writeIgnored_of_reserved s v⟩
  · obtain ⟨c, hc⟩ := exists_locate_eq_constant hlow hhigh
    have hmap : MapsTo off (.constant c) := ⟨show off < 0x800 by omega, halign, hc⟩
    exact hmap.eventWrite_of_idle hidle v

end Sys2Proof.Machine
end

section
/-! PROOFS. A command word and its fields (30_encoding.md R90): the one determines the other. -/

namespace Sys2Proof

theorem toNat_append_eq_add {m n : Nat} (x : BitVec m) (y : BitVec n) :
    (x ++ y).toNat = x.toNat * 2 ^ n + y.toNat := by
  rw [BitVec.toNat_append, ← Nat.shiftLeft_add_eq_or_of_lt y.isLt, Nat.shiftLeft_eq]

/-- The weight of each field (R90). -/
theorem Fields.toNat_toWord (f : Fields) :
    f.toWord.toNat = f.op.toNat * 2 ^ 24 + f.a.toNat * 2 ^ 20 + f.b.toNat * 2 ^ 16 + f.c.toNat * 2 ^ 12 +
      f.z.toNat * 2 ^ 8 + f.imm.toNat := by
  simp only [Fields.toWord, toNat_append_eq_add]
  omega

@[simp] theorem Fields.ofWord_toWord (f : Fields) : Fields.ofWord f.toWord = f := by
  obtain ⟨op, a, b, c, z, imm⟩ := f
  simp only [Fields.ofWord, Fields.mk.injEq, ← BitVec.toNat_inj, BitVec.extractLsb'_toNat, Fields.toNat_toWord,
    Nat.shiftRight_eq_div_pow]
  omega

/-- The fields leave out no bit of a word. -/
@[simp] theorem Fields.toWord_ofWord (w : Word32) : (Fields.ofWord w).toWord = w := by
  rw [← BitVec.toNat_inj, Fields.toNat_toWord]
  simp only [Fields.ofWord, BitVec.extractLsb'_toNat, Nat.shiftRight_eq_div_pow]
  omega

theorem Fields.ofWord_injective : Function.Injective Fields.ofWord :=
  Function.LeftInverse.injective Fields.toWord_ofWord

theorem encode_eq_iff_fields_eq {i : Instr} {w : Word32} : encode i = w ↔ i.fields = Fields.ofWord w := by
  rw [← Fields.ofWord_injective.eq_iff, encode, Fields.ofWord_toWord]

/-- Bitwise AND, field by field. -/
def Fields.and (f g : Fields) : Fields :=
  ⟨f.op &&& g.op, f.a &&& g.a, f.b &&& g.b, f.c &&& g.c, f.z &&& g.z, f.imm &&& g.imm⟩

theorem Fields.ofWord_and (w v : Word32) :
    Fields.ofWord (w &&& v) = (Fields.ofWord w).and (Fields.ofWord v) := by
  simp only [Fields.ofWord, Fields.and, BitVec.extractLsb'_and]

end Sys2Proof
end

section
/-! PROOFS. The words the decoder accepts are the encodings of the well-formed commands (30_encoding.md R95, R96). -/

namespace Sys2Proof

/-- The decoder accepts a word when it passes all the checks of R96. -/
theorem decode_eq_ok_iff_rowOf {w : Word32} {i : Instr} :
    decode w = .ok i ↔
      rowOf (Fields.ofWord w) = some (i, true) ∧ (Fields.ofWord w).z = 0 ∧ i.wellFormed = true := by
  simp only [decode]
  cases rowOf (Fields.ofWord w) with
  | none => simp
  | some row =>
    obtain ⟨j, unusedZero⟩ := row
    simp only [Option.some.injEq, Prod.mk.injEq]
    constructor
    · intro h
      split_ifs at h with hz hunused hwf
      obtain rfl := Except.ok.inj h
      exact ⟨⟨rfl, by simpa using hunused⟩, not_not.1 hz, by simpa using hwf⟩
    · rintro ⟨⟨rfl, rfl⟩, hz, hwf⟩
      simp [hz, hwf]

section
open Laws.RowOfFields

/-- The family `RowOfFields`, for every command. -/
theorem rowOfFields (i : Instr) : Statement i := by
  cases i
  exacts [fadd .., fsub .., fmul .., fneg .., finv .., pdbl .., padd .., pchk .., pmul .., pmulg .., schk ..,
    serc .., seru .., sha256 .., rmd160 .., hash160 .., b58enc .., b58dec .., r2b .., b2r .., bapp ..]

end

/-- When every field a row leaves unused is zero, the encoder writes each field back as it was. -/
theorem fields_eq_of_rowOf {f : Fields} {i : Instr} (hrow : rowOf f = some (i, true)) (hz : f.z = 0) :
    i.fields = f := by
  obtain ⟨op, a, b, c, z, imm⟩ := f
  unfold rowOf at hrow
  split at hrow
  case h_22 => cases hrow
  all_goals
    simp only [Option.some.injEq, Prod.mk.injEq, decide_eq_true_eq, Bool.and_eq_true] at hrow
    obtain ⟨rfl, hunused⟩ := hrow
    simp_all [Instr.fields]

theorem rowOf_eq_some_true_iff {f : Fields} {i : Instr} : rowOf f = some (i, true) ∧ f.z = 0 ↔ i.fields = f := by
  constructor
  · exact fun ⟨hrow, hz⟩ => fields_eq_of_rowOf hrow hz
  · rintro rfl
    exact (rowOfFields i).symm

theorem decode_eq_ok_iff {w : Word32} {i : Instr} : decode w = .ok i ↔ i.wellFormed = true ∧ encode i = w := by
  rw [decode_eq_ok_iff_rowOf, ← and_assoc, rowOf_eq_some_true_iff, encode_eq_iff_fields_eq, and_comm]

/-- Settles O1: the decoder finds the fields that the encoder wrote. -/
theorem decodeInvertsEncode : Obligations.DecodeInvertsEncode :=
  fun _ hwf => decode_eq_ok_iff.2 ⟨hwf, rfl⟩

/-- Settles O2: the encoder writes back every field of a word that the decoder accepts. -/
theorem decodedWordReencodes : Obligations.DecodedWordReencodes :=
  fun _ _ hdecode => decode_eq_ok_iff.1 hdecode

/-- Settles O4, by evaluating the decoder on each word. -/
theorem sampleWordsDecode : Obligations.SampleWordsDecode := by
  unfold Obligations.SampleWordsDecode
  decide

end Sys2Proof
end

section
/-! PROOFS. The opcode table (30_encoding.md R94, R95): the mask of a row makes the decoder's checks, field by field,
and no two rows share an opcode. -/

namespace Sys2Proof

/-! ### Masks over fields -/

/-- A row compares each field of a word under its own part of the mask. -/
theorem OpcodeRow.matchesWord_iff (row : OpcodeRow) (w : Word32) :
    row.matchesWord w = true ↔
      (Fields.ofWord w).and (Fields.ofWord row.mask) = Fields.ofWord row.pattern := by
  rw [OpcodeRow.matchesWord, beq_iff_eq, ← Fields.ofWord_and, Fields.ofWord_injective.eq_iff]

theorem byte_and_255 (x : Byte) : x &&& 255#8 = x := BitVec.and_allOnes

theorem index_and_15 (x : Index) : x &&& 15#4 = x := BitVec.and_allOnes

theorem regOk_iff_and : ∀ x : Index, regOk x = true ↔ x &&& 8#4 = 0#4 := by decide

theorem ptOk_iff_and : ∀ x : Index, ptOk x = true ↔ x &&& 12#4 = 0#4 := by decide

theorem bufOk_iff_and : ∀ x : Index, bufOk x = true ↔ x &&& 12#4 = 0#4 := by decide

/-! ### One row -/

/-- The opcode of a row (R94). -/
def OpcodeRow.op (row : OpcodeRow) : BitVec 8 := row.pattern.extractLsb' 24 8

/-- The checks of R96 (b) to (d) on fields whose opcode has the row `(j, unusedZero)`. -/
theorem exists_rowOf_iff {f : Fields} {j : Instr} {unusedZero : Bool} (hrow : rowOf f = some (j, unusedZero)) :
    (∃ i, rowOf f = some (i, true) ∧ f.z = 0 ∧ i.wellFormed = true) ↔
      f.z = 0 ∧ unusedZero = true ∧ j.wellFormed = true := by
  rw [hrow]
  constructor
  · rintro ⟨i, heq, hz, hwf⟩
    cases heq
    exact ⟨hz, rfl, hwf⟩
  · rintro ⟨hz, rfl, hwf⟩
    exact ⟨j, rfl, hz, hwf⟩

/-- Once a row has fixed the opcode, its mask over the other fields makes the decoder's checks: the full mask on a
field that the format does not use, the range of R93 on an index, no bit on an immediate. -/
theorem fields_and_mask_eq_iff {row : OpcodeRow} (hrow : row ∈ opcodeTable) (f : Fields) :
    f.and (Fields.ofWord row.mask) = Fields.ofWord row.pattern ↔
      f.op = row.op ∧ ∃ i, rowOf f = some (i, true) ∧ f.z = 0 ∧ i.wellFormed = true := by
  obtain ⟨op, a, b, c, z, imm⟩ := f
  simp only [opcodeTable, List.mem_cons, List.not_mem_nil, or_false] at hrow
  rcases hrow with rfl | rfl | rfl | rfl | rfl | rfl | rfl | rfl | rfl | rfl | rfl | rfl | rfl | rfl | rfl | rfl |
    rfl | rfl | rfl | rfl | rfl
  all_goals
    simp only [Fields.and, Fields.ofWord, OpcodeRow.op, Fields.mk.injEq, BitVec.reduceExtractLsb', byte_and_255,
      index_and_15, and_congr_right_iff]
    rintro rfl
    rw [exists_rowOf_iff rfl]
    simp only [Instr.wellFormed, regOk_iff_and, ptOk_iff_and, bufOk_iff_and, decide_eq_true_eq, Bool.and_eq_true,
      BitVec.ofNat_eq_ofNat, BitVec.and_zero]
    tauto

/-- A word matches a row exactly when it decodes to a command with the row's opcode. -/
theorem OpcodeRow.matchesWord_iff_decode {row : OpcodeRow} (hrow : row ∈ opcodeTable) (w : Word32) :
    row.matchesWord w = true ↔ ∃ i, decode w = .ok i ∧ i.fields.op = row.op := by
  rw [row.matchesWord_iff, fields_and_mask_eq_iff hrow]
  constructor
  · rintro ⟨hop, i, hlegal, hz, hwf⟩
    have hfields : i.fields = Fields.ofWord w := fields_eq_of_rowOf hlegal hz
    exact ⟨i, decode_eq_ok_iff_rowOf.2 ⟨hlegal, hz, hwf⟩, hfields ▸ hop⟩
  · rintro ⟨i, hdecode, hop⟩
    have hfields := encode_eq_iff_fields_eq.1 (decode_eq_ok_iff.1 hdecode).2
    exact ⟨hfields ▸ hop, i, decode_eq_ok_iff_rowOf.1 hdecode⟩

/-! ### All rows -/

theorem opcodeTable_map_op :
    opcodeTable.map OpcodeRow.op =
      [0x01, 0x02, 0x03, 0x04, 0x05, 0x10, 0x11, 0x12, 0x18, 0x19, 0x1A, 0x20, 0x21, 0x28, 0x29, 0x2A, 0x30, 0x31,
       0x38, 0x39, 0x3A] := by
  decide

theorem eq_of_op_eq {row row' : OpcodeRow} (hrow : row ∈ opcodeTable) (hrow' : row' ∈ opcodeTable)
    (hop : row.op = row'.op) : row = row' := by
  have hnodup : (opcodeTable.map OpcodeRow.op).Nodup := by
    rw [opcodeTable_map_op]
    decide
  exact List.inj_on_of_nodup_map hnodup hrow hrow' hop

theorem exists_row_op_eq (i : Instr) : ∃ row ∈ opcodeTable, row.op = i.fields.op := by
  rw [← List.mem_map, opcodeTable_map_op]
  cases i <;> simp [Instr.fields]

theorem exists_decode_iff_tableLegal (w : Word32) : (∃ i, decode w = .ok i) ↔ tableLegal w = true := by
  rw [tableLegal, List.any_eq_true]
  constructor
  · rintro ⟨i, hdecode⟩
    obtain ⟨row, hrow, hop⟩ := exists_row_op_eq i
    exact ⟨row, hrow, (row.matchesWord_iff_decode hrow w).2 ⟨i, hdecode, hop.symm⟩⟩
  · rintro ⟨row, hrow, hmatch⟩
    obtain ⟨i, hdecode, -⟩ := (row.matchesWord_iff_decode hrow w).1 hmatch
    exact ⟨i, hdecode⟩

theorem eq_of_matchesWord {row row' : OpcodeRow} (hrow : row ∈ opcodeTable) (hrow' : row' ∈ opcodeTable)
    {w : Word32} (hmatch : row.matchesWord w = true) (hmatch' : row'.matchesWord w = true) : row = row' := by
  obtain ⟨i, hdecode, hop⟩ := (row.matchesWord_iff_decode hrow w).1 hmatch
  obtain ⟨j, hdecode', hop'⟩ := (row'.matchesWord_iff_decode hrow' w).1 hmatch'
  obtain rfl : i = j := Except.ok.inj (hdecode.symm.trans hdecode')
  exact eq_of_op_eq hrow hrow' (hop.symm.trans hop')

/-- Settles O3: a row's mask makes the decoder's checks, and the opcode names the row. -/
theorem rowsOfTheOpcodeTable : Obligations.RowsOfTheOpcodeTable :=
  ⟨fun _ hrow w => OpcodeRow.matchesWord_iff_decode hrow w, exists_decode_iff_tableLegal,
    fun _ _ hrow _ hrow' => eq_of_matchesWord hrow hrow'⟩

end Sys2Proof
end

section
/-! PROOFS. The two ways a command ends, with what each leaves unchanged, and the value of a command word; for the
statements that give one command's result. -/

namespace Sys2Proof.Machine

/-- The word of a command has its fields at their places (30_encoding.md R100); z is zero (R96). -/
theorem toNat_encode (i : Instr) :
    (encode i).toNat = wordValue i.fields.op.toNat i.fields.a i.fields.b i.fields.c i.fields.imm := by
  obtain ⟨hz, -⟩ := rowOfFields i
  simp [encode, Fields.toNat_toWord, hz, wordValue]

/-- The destination register of a well-formed command exists (R93). -/
theorem lt_nReg_of_writesReg {i : Instr} {d : Index} (hwf : i.wellFormed = true) (hd : writesReg i = some d) :
    d.toNat < Config.nReg := by
  cases i with
  | fadd | fsub | fmul | fneg | finv | b2r =>
    cases hd
    simp only [Instr.wellFormed, regOk, Bool.and_eq_true, decide_eq_true_eq] at hwf
    tauto
  | pdbl | padd | pchk | pmul | pmulg | schk | serc | seru | sha256 | rmd160 | hash160 | b58enc | b58dec | r2b | bapp =>
    cases hd

/-- Completion with a register written: everything but that register is as before. -/
theorem State.onlyReg_finish_writeReg (s : State) (i v : Nat) : OnlyReg s (s.writeReg i v).finish i := by
  refine ⟨⟨rfl, rfl, rfl⟩, fun j hj => ?_, fun _ => rfl, fun _ => ⟨rfl, fun _ => rfl⟩, ⟨rfl, rfl, rfl, rfl⟩, rfl, rfl⟩
  rw [State.reg_finish, State.writeReg, State.reg_setReg_ne s hj.symm]

/-- A command whose pseudocode writes its destination register completes and leaves the value there. -/
theorem exists_onlyReg_of_exec_eq {i : Instr} {s : State} {d : Index} {v : Nat} (hwf : i.wellFormed = true)
    (hd : writesReg i = some d) (hv : v < 2 ^ 256) (he : exec i s = s.conclude (.ok (s.writeReg d.toNat v))) :
    ∃ t, exec i s = .next t ∧ OnlyReg s t d.toNat ∧ (t.reg d.toNat).toNat = v :=
  ⟨_, he, s.onlyReg_finish_writeReg d.toNat v, s.toNat_reg_writeReg (lt_nReg_of_writesReg hwf hd) hv⟩

/-- Raising an error changes nothing but the life of the command (60_exceptions.md R310). -/
theorem State.raised_raise (s : State) (e : CmdError) : Raised s (s.raise e) e.number :=
  ⟨rfl, rfl, rfl, fun _ => rfl, fun _ => rfl, fun _ => ⟨rfl, fun _ => rfl⟩, ⟨rfl, rfl, rfl, rfl⟩, rfl, rfl⟩

end Sys2Proof.Machine
end

section
/-! PROOFS. Field addition, subtraction, multiplication and negation, and their commands (40_field.md R121 to R124). -/

namespace Sys2Proof.Machine

theorem p_pos : 0 < Config.p := Primality.prime_p.pos

/-- A field element fits a register. -/
theorem lt_two_pow_of_lt_p {v : Nat} (h : v < Config.p) : v < 2 ^ 256 :=
  h.trans (by decide)

/-! ### The operations -/

theorem fAdd_lt (a b : Nat) : fAdd a b < Config.p := Nat.mod_lt _ p_pos

theorem fSub_lt (a b : Nat) : fSub a b < Config.p := Nat.mod_lt _ p_pos

theorem fMul_lt (a b : Nat) : fMul a b < Config.p := Nat.mod_lt _ p_pos

theorem fNeg_lt (a : Nat) : fNeg a < Config.p := Nat.mod_lt _ p_pos

/-- The subtraction of naturals that `fSub` makes is the remainder of the exact difference (R122). -/
theorem intCast_fSub (a b : Nat) : (fSub a b : Int) = ((a : Int) - b) % Config.p := by
  simp only [fSub, Config.p]
  omega

theorem fNeg_eq_ite (a : Nat) : fNeg a = if a % Config.p = 0 then 0 else Config.p - a % Config.p := by
  rw [fNeg]
  split
  next h => rw [h, Nat.sub_zero, Nat.mod_self]
  next h => exact Nat.mod_eq_of_lt (Nat.sub_lt p_pos (Nat.pos_of_ne_zero h))

/-! ### The commands -/

/-- Settles O16: `fAdd` of the operands is a field element, so the register holds it whole. -/
theorem faddResult : Obligations.FaddResult :=
  fun _ _ _ _ hwf => ⟨toNat_encode _, exists_onlyReg_of_exec_eq hwf rfl (lt_two_pow_of_lt_p (fAdd_lt _ _)) rfl⟩

/-- Settles O17: the register holds `fSub` of the operands, and that is the remainder of the exact difference. -/
theorem fsubResult : Obligations.FsubResult := by
  intro rd rs1 rs2 s hwf
  obtain ⟨t, he, honly, hvalue⟩ := exists_onlyReg_of_exec_eq (s := s) hwf rfl (lt_two_pow_of_lt_p (fSub_lt _ _)) rfl
  refine ⟨toNat_encode _, t, he, honly, ?_⟩
  rw [hvalue]
  exact intCast_fSub (s.fe rs1) (s.fe rs2)

/-- Settles O18: `fMul` of the operands is a field element, so the register holds it whole. -/
theorem fmulResult : Obligations.FmulResult :=
  fun _ _ _ _ hwf => ⟨toNat_encode _, exists_onlyReg_of_exec_eq hwf rfl (lt_two_pow_of_lt_p (fMul_lt _ _)) rfl⟩

/-- Settles O19: the operand is reduced already, so `fNeg` tests it as it stands. -/
theorem fnegResult : Obligations.FnegResult := by
  intro rd rs1 s hwf
  obtain ⟨t, he, honly, hvalue⟩ := exists_onlyReg_of_exec_eq (s := s) hwf rfl (lt_two_pow_of_lt_p (fNeg_lt _)) rfl
  refine ⟨toNat_encode _, t, he, honly, ?_⟩
  have hreduced : s.fe rs1 % Config.p = s.fe rs1 := Nat.mod_mod _ _
  rw [hvalue, fNeg_eq_ite, hreduced, State.fe]

end Sys2Proof.Machine
end

section
/-! PROOFS. The inverse modulo p (40_field.md R125, R128): Fermat's power and the extended Euclidean loop each give
the inverse in the field `ZMod p`, and a value below p is fixed by its residue. -/

namespace Sys2Proof.Machine

theorem fact_prime_p : Fact Config.p.Prime := ⟨Primality.prime_p⟩

/-! ### Numbers below p and their residues -/

theorem natCast_eq_natCast_iff_of_lt {a b : Nat} (ha : a < Config.p) (hb : b < Config.p) :
    (a : ZMod Config.p) = b ↔ a = b := by
  rw [ZMod.natCast_eq_natCast_iff', Nat.mod_eq_of_lt ha, Nat.mod_eq_of_lt hb]

theorem natCast_eq_zero_iff_mod (a : Nat) : (a : ZMod Config.p) = 0 ↔ a % Config.p = 0 := by
  rw [ZMod.natCast_eq_zero_iff, Nat.dvd_iff_mod_eq_zero]

theorem natCast_eq_one_iff_mod (a : Nat) : (a : ZMod Config.p) = 1 ↔ a % Config.p = 1 := by
  rw [← Nat.cast_one, ZMod.natCast_eq_natCast_iff', Nat.mod_eq_of_lt (a := 1) (by decide)]

theorem natCast_fMul (a b : Nat) : (fMul a b : ZMod Config.p) = a * b := by
  rw [fMul, ZMod.natCast_mod, Nat.cast_mul]

/-! ### Fermat's inverse -/

theorem powLoop_lt (fuel b e : Nat) {acc : Nat} (h : acc < Config.p) : powLoop fuel b e acc < Config.p := by
  induction fuel generalizing b e acc with
  | zero => exact h
  | succ fuel ih =>
    refine ih _ _ ?_
    split
    next => exact fMul_lt _ _
    next => exact h

/-- Square and multiply: the accumulator times the power that is still to come. -/
theorem natCast_powLoop {fuel e : Nat} (b acc : Nat) (h : e < 2 ^ fuel) :
    (powLoop fuel b e acc : ZMod Config.p) = acc * b ^ e := by
  induction fuel generalizing b e acc with
  | zero =>
    obtain rfl : e = 0 := by omega
    simp [powLoop]
  | succ fuel ih =>
    have hhalf : e / 2 < 2 ^ fuel := by omega
    have hsquares : ((b : ZMod Config.p) * b) ^ (e / 2) = b ^ (2 * (e / 2)) := by rw [← pow_two, ← pow_mul]
    rw [powLoop, ih _ _ hhalf, natCast_fMul, hsquares]
    split
    next hodd =>
      have he : 2 * (e / 2) + 1 = e := by omega
      rw [natCast_fMul, mul_assoc, ← pow_succ', he]
    next heven =>
      have he : 2 * (e / 2) = e := by omega
      rw [he]

theorem fInv_lt (a : Nat) : fInv a < Config.p := powLoop_lt _ _ _ (by decide)

/-- The loop computes Fermat's power (R128). -/
theorem natCast_fInv_eq_pow (a : Nat) : (fInv a : ZMod Config.p) = a ^ (Config.p - 2) := by
  have hexponent : Config.p - 2 < 2 ^ 256 := by decide
  rw [fInv, natCast_powLoop _ _ hexponent, ZMod.natCast_mod, Nat.cast_one, one_mul]

theorem fInv_eq_pow_mod (a : Nat) : fInv a = a ^ (Config.p - 2) % Config.p := by
  rw [← natCast_eq_natCast_iff_of_lt (fInv_lt a) (Nat.mod_lt _ p_pos), natCast_fInv_eq_pow, ZMod.natCast_mod,
    Nat.cast_pow]

/-- Fermat's little theorem: that power is the inverse. -/
theorem natCast_fInv_mul_self {a : Nat} (ha : a % Config.p ≠ 0) : (fInv a : ZMod Config.p) * a = 1 := by
  have := fact_prime_p
  have hne : (a : ZMod Config.p) ≠ 0 := (natCast_eq_zero_iff_mod a).not.2 ha
  have hexponent : Config.p - 2 + 1 = Config.p - 1 := by decide
  rw [natCast_fInv_eq_pow, ← pow_succ, hexponent, ZMod.pow_card_sub_one_eq_one hne]

/-- `fInv a` is the only number below p that makes 1 with `a`. -/
theorem eq_fInv_iff {a v : Nat} (ha : a % Config.p ≠ 0) (hv : v < Config.p) :
    v = fInv a ↔ a * v % Config.p = 1 := by
  have := fact_prime_p
  have hne : (a : ZMod Config.p) ≠ 0 := (natCast_eq_zero_iff_mod a).not.2 ha
  rw [← natCast_eq_natCast_iff_of_lt hv (fInv_lt a), ← natCast_eq_one_iff_mod, Nat.cast_mul, mul_comm,
    ← natCast_fInv_mul_self ha, mul_left_inj' hne]

/-- The inverse as R125 says it: the one number from 1 to p - 1 that makes 1 with `a`. -/
theorem eq_fInv_iff_inverse_in_range {a v : Nat} (ha : a % Config.p ≠ 0) :
    v = fInv a ↔ 1 ≤ v ∧ v < Config.p ∧ a * v % Config.p = 1 := by
  constructor
  · intro h
    have hlt : v < Config.p := h ▸ fInv_lt a
    have hinverse : a * v % Config.p = 1 := (eq_fInv_iff ha hlt).1 h
    have hpos : 1 ≤ v := Nat.pos_of_ne_zero fun h0 => by simp [h0] at hinverse
    exact ⟨hpos, hlt, hinverse⟩
  · rintro ⟨-, hlt, hinverse⟩
    exact (eq_fInv_iff ha hlt).2 hinverse

/-! ### The extended Euclidean algorithm -/

theorem euclidLoop_zero_right (fuel r0 : Nat) (s0 s1 : Int) : euclidLoop (fuel + 1) r0 0 s0 s1 = some (r0, s0) := rfl

theorem euclidLoop_of_pos (fuel r0 : Nat) {r1 : Nat} (s0 s1 : Int) (h : 0 < r1) :
    euclidLoop (fuel + 1) r0 r1 s0 s1 = euclidLoop fuel r1 (r0 % r1) s1 (s0 - (r0 / r1 : Nat) * s1) := by
  rw [euclidLoop, if_neg h.ne', Nat.mod_eq_sub_div_mul]

/-- One round halves the product of the two remainders. -/
theorem mul_mod_lt_of_mul_lt_two_mul {r0 r1 m : Nat} (hpos : 0 < r1) (hle : r1 ≤ r0) (h : r0 * r1 < 2 * m) :
    r1 * (r0 % r1) < m := by
  have hhalf : 2 * (r0 % r1) ≤ r0 := by
    have hmod : r0 % r1 < r1 := Nat.mod_lt _ hpos
    have hsub : r0 % r1 ≤ r0 - r1 := Nat.mod_eq_sub_mod hle ▸ Nat.mod_le _ _
    omega
  have hdouble : 2 * (r1 * (r0 % r1)) ≤ r0 * r1 :=
    calc 2 * (r1 * (r0 % r1)) = 2 * (r0 % r1) * r1 := by ring
      _ ≤ r0 * r1 := Nat.mul_le_mul_right r1 hhalf
  omega

/-- The round in which the loop ends: no remainder is left, and the divisor is the other one. -/
theorem euclidLoop_zero_right_eq_gcd {N : Nat} (a : ZMod N) (fuel : Nat) {r0 : Nat} {s0 s1 : Int}
    (h0 : (r0 : ZMod N) = s0 * a) :
    ∃ s : Int, euclidLoop (fuel + 1) r0 0 s0 s1 = some (r0.gcd 0, s) ∧ ((r0.gcd 0 : Nat) : ZMod N) = s * a :=
  ⟨s0, by rw [euclidLoop_zero_right, Nat.gcd_zero_right], by rw [Nat.gcd_zero_right, h0]⟩

/-- The loop ends with the greatest common divisor and a factor `s` that makes it from `a`, if its two remainders
are multiples of `a` by the two factors. -/
theorem euclidLoop_eq_gcd {N : Nat} (a : ZMod N) (fuel : Nat) {r0 r1 : Nat} {s0 s1 : Int} (hle : r1 ≤ r0)
    (hfuel : r0 * r1 < 2 ^ fuel) (h0 : (r0 : ZMod N) = s0 * a) (h1 : (r1 : ZMod N) = s1 * a) :
    ∃ s : Int, euclidLoop (fuel + 1) r0 r1 s0 s1 = some (r0.gcd r1, s) ∧ ((r0.gcd r1 : Nat) : ZMod N) = s * a := by
  induction fuel generalizing r0 r1 s0 s1 with
  | zero =>
    obtain rfl : r1 = 0 := by
      have hzero : r0 = 0 ∨ r1 = 0 := Nat.mul_eq_zero.1 (Nat.lt_one_iff.1 hfuel)
      omega
    exact euclidLoop_zero_right_eq_gcd a _ h0
  | succ fuel ih =>
    rcases Nat.eq_zero_or_pos r1 with rfl | hpos
    · exact euclidLoop_zero_right_eq_gcd a _ h0
    · have hfuel' : r1 * (r0 % r1) < 2 ^ fuel := mul_mod_lt_of_mul_lt_two_mul hpos hle (by omega)
      have h2 : ((r0 % r1 : Nat) : ZMod N) = (s0 - (r0 / r1 : Nat) * s1 : Int) * a := by
        have hdiv := congrArg (Nat.cast (R := ZMod N)) (Nat.mod_add_div' r0 r1)
        rw [Nat.cast_add, Nat.cast_mul] at hdiv
        rw [Int.cast_sub, Int.cast_mul, Int.cast_natCast]
        linear_combination hdiv + h0 - (r0 / r1 : Nat) * h1
      have hgcd : r1.gcd (r0 % r1) = r0.gcd r1 := by rw [Nat.gcd_comm r0, Nat.gcd_rec r1 r0, Nat.gcd_comm]
      rw [euclidLoop_of_pos _ _ _ _ hpos, ← hgcd]
      exact ih (Nat.mod_lt _ hpos).le hfuel' h1 h2

/-- 513 rounds are enough for every operand of FINV (R128), and the factor the loop ends with is the inverse. -/
theorem fInvEuclid_eq_fInv {a : Nat} (hpos : 0 < a) (hlt : a < Config.p) : fInvEuclid a = some (fInv a) := by
  have hbound : Config.p * a < 2 ^ 512 :=
    calc Config.p * a < 2 ^ 256 * 2 ^ 256 := Nat.mul_lt_mul'' (by decide) (lt_two_pow_of_lt_p hlt)
      _ = 2 ^ 512 := by rw [← pow_add]
  have hcoprime : Config.p.gcd a = 1 := Nat.coprime_of_lt_prime hpos.ne' hlt Primality.prime_p
  obtain ⟨s, hloop, hs⟩ := euclidLoop_eq_gcd (a : ZMod Config.p) 512 (s0 := 0) (s1 := 1) hlt.le hbound (by simp)
    (by simp)
  rw [hcoprime] at hloop hs
  have hresidue : (((s % (Config.p : Int)).toNat : Nat) : Int) = s % Config.p :=
    Int.toNat_of_nonneg (Int.emod_nonneg _ (by decide))
  have hv : (s % (Config.p : Int)).toNat < Config.p := by
    have := Int.emod_lt_of_pos s (b := Config.p) (by decide)
    omega
  have hinverse : a * (s % (Config.p : Int)).toNat % Config.p = 1 := by
    rw [← natCast_eq_one_iff_mod, Nat.cast_mul, ← Int.cast_natCast (s % _).toNat, hresidue, ZMod.intCast_mod,
      mul_comm, ← hs, Nat.cast_one]
  rw [fInvEuclid, Nat.mod_eq_of_lt hlt, hloop]
  exact congrArg some ((eq_fInv_iff (by rwa [Nat.mod_eq_of_lt hlt, ← Nat.pos_iff_ne_zero]) hv).2 hinverse)

/-- For 0 the loop ends in its first round, with the divisor p itself (R128). -/
theorem fInvEuclid_zero : fInvEuclid 0 = none := by
  have hp : Config.p ≠ 1 := Primality.prime_p.ne_one
  rw [fInvEuclid, Nat.zero_mod, euclidLoop_zero_right]
  split
  next heq =>
    rw [Option.some.injEq, Prod.mk.injEq] at heq
    exact absurd heq.1 hp
  next => rfl

/-- Settles O21: the model's inverse is Fermat's power, and the Euclidean loop ends with the model's inverse. -/
theorem inverseAlgorithmsAgree : Obligations.InverseAlgorithmsAgree :=
  ⟨fun a hpos hlt => ⟨fInv_eq_pow_mod a, fInv_eq_pow_mod a ▸ fInvEuclid_eq_fInv hpos hlt⟩, fInvEuclid_zero⟩

/-! ### The command FINV -/

/-- A raw register reads as the field element 0 for 0 and p only: `2 * p` does not fit it. -/
theorem mod_p_eq_zero_iff_of_lt {x : Nat} (h : x < 2 ^ 256) : x % Config.p = 0 ↔ x = 0 ∨ x = Config.p := by
  simp only [Config.p]
  omega

theorem exec_finv_of_fe_eq_zero {s : State} {rs1 : Index} (rd : Index) (h : s.fe rs1 = 0) :
    exec (.finv rd rs1) s = s.conclude (.error .noInverse) :=
  congrArg s.conclude (if_pos h)

theorem exec_finv_of_fe_ne_zero {s : State} {rs1 : Index} (rd : Index) (h : s.fe rs1 ≠ 0) :
    exec (.finv rd rs1) s = s.conclude (.ok (s.writeReg rd.toNat (fInv (s.fe rs1)))) :=
  congrArg s.conclude (if_neg h)

/-- Settles O20: the command tests the reduced operand, and `fInv` is the only inverse below p. -/
theorem finvResult : Obligations.FinvResult := by
  intro rd rs1 s hwf
  refine ⟨toNat_encode _, mod_p_eq_zero_iff_of_lt (s.reg rs1.toNat).isLt, fun hzero => ?_, fun hne => ?_⟩
  · exact ⟨_, exec_finv_of_fe_eq_zero rd hzero, s.raised_raise .noInverse⟩
  · obtain ⟨t, he, honly, hvalue⟩ := exists_onlyReg_of_exec_eq hwf rfl (lt_two_pow_of_lt_p (fInv_lt _))
      (exec_finv_of_fe_ne_zero rd hne)
    have hreduced : s.fe rs1 % Config.p ≠ 0 := (Nat.mod_mod _ _).trans_ne hne
    refine ⟨t, he, honly, fun v => ?_⟩
    rw [hvalue]
    exact eq_fInv_iff_inverse_in_range hreduced

end Sys2Proof.Machine
end

section
/-! PROOFS. A command that writes a point register: its one destination, with what it leaves unchanged (10_state.md
R27), and the point value a raw register reads as (R26). -/

namespace Sys2Proof.Machine

/-- The destination point register of a well-formed command exists (R93). -/
theorem lt_nPt_of_writesPoint {i : Instr} {d : Index} (hwf : i.wellFormed = true) (hd : writesPoint i = some d) :
    d.toNat < Config.nPt := by
  cases i with
  | pdbl | padd | pmul | pmulg =>
    cases hd
    simp only [Instr.wellFormed, ptOk, Bool.and_eq_true, decide_eq_true_eq] at hwf
    tauto
  | fadd | fsub | fmul | fneg | finv | pchk | schk | serc | seru | sha256 | rmd160 | hash160 | b58enc | b58dec | r2b
  | b2r | bapp =>
    cases hd

/-- Completion with a point register written: everything but that point register is as before. -/
theorem State.onlyPoint_finish_writePoint (s : State) (i : Nat) (P : Point) :
    OnlyPoint s (s.writePoint i P).finish i := by
  refine ⟨⟨rfl, rfl, rfl⟩, fun _ => rfl, fun j hj => ?_, fun _ => ⟨rfl, fun _ => rfl⟩, ⟨rfl, rfl, rfl, rfl⟩, rfl, rfl⟩
  rw [State.point_finish, State.writePoint, State.point_setPoint_ne s hj.symm]

/-- A command whose pseudocode writes a canonical point to its destination completes and leaves the point there. -/
theorem exists_onlyPoint_of_exec_eq {i : Instr} {s : State} {d : Index} {P : Point} (hwf : i.wellFormed = true)
    (hd : writesPoint i = some d) (hP : P.Canonical) (he : exec i s = s.conclude (.ok (s.writePoint d.toNat P))) :
    ∃ t, exec i s = .next t ∧ OnlyPoint s t d.toNat ∧ HoldsPoint (t.point d.toNat) P :=
  ⟨_, he, s.onlyPoint_finish_writePoint d.toNat P, s.holdsPoint_writePoint (lt_nPt_of_writesPoint hwf hd) hP⟩

theorem State.pt_of_inf {s : State} {i : Index} (h : (s.point i.toNat).inf = true) : s.pt i = .infinity :=
  if_pos h

theorem State.pt_of_not_inf {s : State} {i : Index} (h : ¬(s.point i.toNat).inf = true) :
    s.pt i = .affine ((s.point i.toNat).x.toNat % Config.p) ((s.point i.toNat).y.toNat % Config.p) :=
  if_neg h

/-- Coordinates are reduced on reading, so every value read is canonical (R26). -/
theorem State.canonical_pt (s : State) (i : Index) : (s.pt i).Canonical := by
  by_cases h : (s.point i.toNat).inf = true
  · rw [State.pt_of_inf h]
    trivial
  · rw [State.pt_of_not_inf h]
    exact ⟨Nat.mod_lt _ p_pos, Nat.mod_lt _ p_pos⟩

end Sys2Proof.Machine
end

section
/-! PROOFS. Doubling and addition of points, an equation for each case of 41_point.md R142 and R143. The tangent and
the chord are one construction, the point that a line of a given slope makes from two x coordinates. -/

namespace Sys2Proof.Machine

/-! ### The line through two points -/

/-- The slope of the tangent at `(x, y)` (R142). -/
def tangentSlope (x y : Nat) : Nat := fMul (3 * x * x) (fInv ((2 * y) % Config.p))

/-- The slope of the chord through `(x1, y1)` and `(x2, y2)` (R143, case 6). -/
def chordSlope (x1 y1 x2 y2 : Nat) : Nat := fMul (fSub y2 y1) (fInv (fSub x2 x1))

/-- The point that the line of slope `lam` through `(x1, y1)` makes with the other point's x coordinate `x2`
(R142, R143). -/
def linePoint (lam x1 x2 y1 : Nat) : Point :=
  .affine (fSub (lam * lam) (x1 + x2)) (fSub (lam * fSub x1 (fSub (lam * lam) (x1 + x2))) y1)

theorem canonical_linePoint (lam x1 x2 y1 : Nat) : (linePoint lam x1 x2 y1).Canonical :=
  ⟨fSub_lt _ _, fSub_lt _ _⟩

/-- The inner difference of `linePoint` is reduced, which does not change the remainder of the outer one. -/
theorem intCast_fSub_mul_fSub (lam a b c : Nat) :
    (fSub (lam * fSub a b) c : Int) = ((lam : Int) * (a - b) - c) % Config.p := by
  rw [intCast_fSub, Nat.cast_mul, intCast_fSub]
  exact ((Int.mod_modEq _ _).mul_left _).sub_right _

/-- A register that holds a `linePoint` has the exact remainders of R142 and R143 for its coordinates. -/
theorem coordinates_of_holdsPoint_linePoint {v : PointReg} {lam x1 x2 y1 : Nat}
    (h : HoldsPoint v (linePoint lam x1 x2 y1)) :
    v.inf = false ∧ (v.x.toNat : Int) = ((lam : Int) * lam - x1 - x2) % Config.p ∧
      (v.y.toNat : Int) = ((lam : Int) * (x1 - v.x.toNat) - y1) % Config.p := by
  obtain ⟨hinf, hx, hy⟩ := h
  refine ⟨hinf, ?_, ?_⟩
  · rw [hx, intCast_fSub, Nat.cast_mul, Nat.cast_add, sub_sub]
  · rw [hy, hx, intCast_fSub_mul_fSub]

/-! ### The slopes in the field -/

theorem natCast_fSub (a b : Nat) : (fSub a b : ZMod Config.p) = a - b := by
  rw [← Int.cast_natCast (fSub a b), intCast_fSub, ZMod.intCast_mod, Int.cast_sub, Int.cast_natCast, Int.cast_natCast]

/-- p is odd, so the tangent's denominator is 0 for `y = 0` only. -/
theorem two_mul_mod_p_ne_zero {y : Nat} (hy : y % Config.p ≠ 0) : (2 * y) % Config.p ≠ 0 := by
  have hodd : Nat.Coprime Config.p 2 := by decide
  contrapose! hy
  exact Nat.mod_eq_zero_of_dvd (hodd.dvd_of_dvd_mul_left (Nat.dvd_of_mod_eq_zero hy))

theorem fSub_mod_p_ne_zero {a b : Nat} (ha : a < Config.p) (hb : b < Config.p) (h : a ≠ b) :
    fSub a b % Config.p ≠ 0 := by
  rwa [Ne, ← natCast_eq_zero_iff_mod, natCast_fSub, sub_eq_zero, natCast_eq_natCast_iff_of_lt ha hb]

/-- The equation that fixes the tangent's slope. -/
theorem natCast_tangentSlope_mul (x : Nat) {y : Nat} (hy : y % Config.p ≠ 0) :
    (tangentSlope x y : ZMod Config.p) * (2 * y) = 3 * x * x := by
  have hinv := natCast_fInv_mul_self ((Nat.mod_mod _ _).trans_ne (two_mul_mod_p_ne_zero hy))
  rw [ZMod.natCast_mod, Nat.cast_mul, Nat.cast_two] at hinv
  rw [tangentSlope, natCast_fMul, mul_assoc, hinv]
  push_cast
  ring

/-- The equation that fixes the chord's slope. -/
theorem natCast_chordSlope_mul (y1 y2 : Nat) {x1 x2 : Nat} (h1 : x1 < Config.p) (h2 : x2 < Config.p) (hne : x1 ≠ x2) :
    (chordSlope x1 y1 x2 y2 : ZMod Config.p) * (x2 - x1) = y2 - y1 := by
  have hinv := natCast_fInv_mul_self (fSub_mod_p_ne_zero h2 h1 hne.symm)
  rw [chordSlope, natCast_fMul, mul_assoc, ← natCast_fSub x2, hinv, mul_one, natCast_fSub]

/-! ### Doubling -/

theorem pointDouble_of_y_eq_zero (x : Nat) : pointDouble (.affine x 0) = .infinity := rfl

theorem pointDouble_of_y_ne_zero (x : Nat) {y : Nat} (hy : y ≠ 0) :
    pointDouble (.affine x y) = linePoint (tangentSlope x y) x x y := by
  rw [linePoint, ← two_mul]
  exact if_neg hy

theorem canonical_pointDouble (P : Point) : (pointDouble P).Canonical := by
  cases P with
  | infinity => trivial
  | affine x y =>
    by_cases hy : y = 0
    · rw [hy, pointDouble_of_y_eq_zero]
      trivial
    · rw [pointDouble_of_y_ne_zero x hy]
      exact canonical_linePoint _ _ _ _

/-- A register that holds the double of an affine point with `y` not 0 satisfies R142. -/
theorem holdsDouble_of_holdsPoint {v : PointReg} {x y : Nat} (hlt : y < Config.p) (hy : y ≠ 0)
    (h : HoldsPoint v (pointDouble (.affine x y))) : HoldsDouble x y v := by
  have hy' : y % Config.p ≠ 0 := (Nat.mod_eq_of_lt hlt).trans_ne hy
  rw [pointDouble_of_y_ne_zero x hy] at h
  obtain ⟨hinf, hx3, hy3⟩ := coordinates_of_holdsPoint_linePoint h
  refine ⟨tangentSlope x y, fMul_lt _ _, ?_, hinf, ?_, hy3⟩
  · rw [← ZMod.natCast_eq_natCast_iff']
    exact_mod_cast natCast_tangentSlope_mul x hy'
  · rw [hx3, two_mul, sub_sub]

/-! ### Addition -/

theorem pointAdd_infinity_left (Q : Point) : pointAdd .infinity Q = Q := by
  cases Q <;> rfl

theorem pointAdd_infinity_right (P : Point) : pointAdd P .infinity = P := by
  cases P <;> rfl

theorem pointAdd_of_y_ne (x : Nat) {y1 y2 : Nat} (hy : y1 ≠ y2) :
    pointAdd (.affine x y1) (.affine x y2) = .infinity :=
  if_pos ⟨rfl, hy⟩

/-- Cases 4 and 5 of R143 together: for `y = 0` the double is Infinity as well. -/
theorem pointAdd_self (P : Point) : pointAdd P P = pointDouble P := by
  cases P with
  | infinity => rfl
  | affine x y =>
    by_cases hy : y = 0
    · subst hy
      simp [pointAdd, pointDouble]
    · simp [pointAdd, hy]

theorem pointAdd_of_x_ne {x1 x2 : Nat} (y1 y2 : Nat) (hx : x1 ≠ x2) :
    pointAdd (.affine x1 y1) (.affine x2 y2) = linePoint (chordSlope x1 y1 x2 y2) x1 x2 y1 := by
  simp only [pointAdd, hx, false_and, if_false]
  rfl

theorem canonical_pointAdd {P Q : Point} (hP : P.Canonical) (hQ : Q.Canonical) : (pointAdd P Q).Canonical := by
  cases P with
  | infinity => rwa [pointAdd_infinity_left]
  | affine x1 y1 =>
    cases Q with
    | infinity => rwa [pointAdd_infinity_right]
    | affine x2 y2 =>
      by_cases hx : x1 = x2
      · subst hx
        by_cases hy : y1 = y2
        · subst hy
          rw [pointAdd_self]
          exact canonical_pointDouble _
        · rw [pointAdd_of_y_ne x1 hy]
          trivial
      · rw [pointAdd_of_x_ne y1 y2 hx]
        exact canonical_linePoint _ _ _ _

/-- A register that holds the sum of affine points with different x coordinates satisfies case 6 of R143. -/
theorem holdsChordSum_of_holdsPoint {v : PointReg} {x1 y1 x2 y2 : Nat} (h1 : x1 < Config.p) (h2 : x2 < Config.p)
    (hx : x1 ≠ x2) (h : HoldsPoint v (pointAdd (.affine x1 y1) (.affine x2 y2))) : HoldsChordSum x1 y1 x2 y2 v := by
  rw [pointAdd_of_x_ne y1 y2 hx] at h
  refine ⟨chordSlope x1 y1 x2 y2, fMul_lt _ _, ?_, coordinates_of_holdsPoint_linePoint h⟩
  rw [← ZMod.intCast_eq_intCast_iff']
  exact_mod_cast natCast_chordSlope_mul y1 y2 h1 h2 hx

end Sys2Proof.Machine
end

section
/-! PROOFS. The commands PDBL, PADD and PCHK (41_point.md R145, R146, R150). -/

namespace Sys2Proof.Machine

/-- Settles O24: the register holds `pointDouble` of the value read, which is Infinity or the tangent's point. -/
theorem pdblResult : Obligations.PdblResult := by
  intro pd ps1 s hwf
  obtain ⟨t, he, honly, hholds⟩ := exists_onlyPoint_of_exec_eq (s := s) hwf rfl (canonical_pointDouble (s.pt ps1)) rfl
  refine ⟨toNat_encode _, t, he, honly, ?_⟩
  by_cases hinf : (s.point ps1.toNat).inf = true
  · rw [State.pt_of_inf hinf] at hholds
    rw [if_pos (.inl hinf)]
    exact hholds
  rw [State.pt_of_not_inf hinf] at hholds
  by_cases hy : (s.point ps1.toNat).y.toNat % Config.p = 0
  · rw [hy, pointDouble_of_y_eq_zero] at hholds
    rw [if_pos (.inr hy)]
    exact hholds
  · rw [if_neg (not_or.2 ⟨hinf, hy⟩)]
    exact holdsDouble_of_holdsPoint (Nat.mod_lt _ p_pos) hy hholds

/-- What a register that holds the sum of two affine points holds, by cases 3 to 6 of R143 in their order. -/
theorem holds_affine_sum {v : PointReg} {x1 y1 x2 y2 : Nat} (hP : (Point.affine x1 y1).Canonical)
    (hQ : (Point.affine x2 y2).Canonical) (h : HoldsPoint v (pointAdd (.affine x1 y1) (.affine x2 y2))) :
    if x1 = x2 ∧ y1 ≠ y2 then HoldsPoint v .infinity
    else if x1 = x2 ∧ y1 = 0 then HoldsPoint v .infinity
    else if x1 = x2 then HoldsDouble x1 y1 v
    else HoldsChordSum x1 y1 x2 y2 v := by
  obtain ⟨hx1, hy1⟩ := hP
  obtain ⟨hx2, -⟩ := hQ
  split_ifs with hopposite htwo hx
  · obtain ⟨rfl, hy⟩ := hopposite
    rwa [pointAdd_of_y_ne x1 hy] at h
  · obtain ⟨rfl, rfl⟩ := htwo
    obtain rfl : 0 = y2 := by tauto
    rwa [pointAdd_self, pointDouble_of_y_eq_zero] at h
  · subst hx
    obtain rfl : y1 = y2 := by tauto
    rw [pointAdd_self] at h
    exact holdsDouble_of_holdsPoint hy1 (by tauto) h
  · exact holdsChordSum_of_holdsPoint hx1 hx2 hx h

/-- Settles O25: the register holds `pointAdd` of the values read, by the operands that are Infinity and then by the
cases of two affine points. -/
theorem paddResult : Obligations.PaddResult := by
  rintro pd ps1 ps2 s _ _ _ _ hwf rfl rfl rfl rfl
  have hP := s.canonical_pt ps1
  have hQ := s.canonical_pt ps2
  obtain ⟨t, he, honly, hholds⟩ := exists_onlyPoint_of_exec_eq (s := s) hwf rfl (canonical_pointAdd hP hQ) rfl
  refine ⟨toNat_encode _, t, he, honly, ?_⟩
  by_cases hinf1 : (s.point ps1.toNat).inf = true <;> by_cases hinf2 : (s.point ps2.toNat).inf = true
  · rw [if_pos hinf1, if_pos hinf2]
    rwa [State.pt_of_inf hinf1, State.pt_of_inf hinf2] at hholds
  · rw [if_pos hinf1, if_neg hinf2]
    rwa [State.pt_of_inf hinf1, State.pt_of_not_inf hinf2] at hholds
  · rw [if_neg hinf1, if_pos hinf2]
    rwa [State.pt_of_not_inf hinf1, State.pt_of_inf hinf2] at hholds
  · rw [if_neg hinf1, if_neg hinf2]
    rw [State.pt_of_not_inf hinf1] at hP hholds
    rw [State.pt_of_not_inf hinf2] at hQ hholds
    exact holds_affine_sum hP hQ hholds

/-- The curve equation that PCHK tests, written with powers. -/
theorem onCurve_affine_iff (x y : Nat) :
    onCurve (.affine x y) = true ↔ y ^ 2 % Config.p = (x ^ 3 + 7) % Config.p := by
  rw [onCurve, decide_eq_true_iff, ← pow_two, ← pow_three', Config.curveB]

theorem onCurve_pt_iff (s : State) (i : Index) :
    onCurve (s.pt i) = true ↔ (s.point i.toNat).inf = true ∨
      ((s.point i.toNat).y.toNat % Config.p) ^ 2 % Config.p =
        (((s.point i.toNat).x.toNat % Config.p) ^ 3 + 7) % Config.p := by
  by_cases hinf : (s.point i.toNat).inf = true
  · rw [State.pt_of_inf hinf]
    exact iff_of_true rfl (.inl hinf)
  · rw [State.pt_of_not_inf hinf, onCurve_affine_iff, or_iff_right hinf]

/-- Settles O26: PCHK completes with ONC set to `onCurve`; that no other command writes ONC is O14. -/
theorem pchkResult : Obligations.PchkResult := by
  refine ⟨fun ps1 s _ => ?_, fun i s t hi he => ?_⟩
  · exact ⟨toNat_encode _, _, rfl, ⟨rfl, rfl, rfl⟩, onCurve_pt_iff s ps1, fun _ => rfl, fun _ => rfl,
      fun _ => ⟨rfl, fun _ => rfl⟩, ⟨rfl, rfl, rfl, rfl⟩, rfl⟩
  · obtain ⟨-, -, -, honc, -⟩ := commandsWriteOnlyWhatTheirRuleNames i s t he
    exact honc hi

end Sys2Proof.Machine
end

section
/-! PROOFS. The points on the curve form a commutative group under `pointAdd` (41_point.md R147): they are the values
of Mathlib's points of `y^2 = x^3 + 7` over `ZMod p`, and `pointAdd` computes the group law of those points. -/

namespace Sys2Proof.Machine

/-! ### The curve over `ZMod p` -/

/-- The curve `y^2 = x^3 + 7` over the field of p elements (00_scope.md R8, R11). -/
def curve : WeierstrassCurve.Affine (ZMod Config.p) := ⟨0, 0, 0, 0, Config.curveB⟩

theorem curve_equation_iff (x y : ZMod Config.p) : curve.Equation x y ↔ y ^ 2 = x ^ 3 + 7 := by
  simp [WeierstrassCurve.Affine.equation_iff, curve, Config.curveB]

theorem curve_negY (x y : ZMod Config.p) : curve.negY x y = -y := by
  simp [curve]

theorem curve_addX (x1 x2 lam : ZMod Config.p) : curve.addX x1 x2 lam = lam * lam - (x1 + x2) := by
  simp only [WeierstrassCurve.Affine.addX, curve]
  ring

theorem curve_addY (x1 x2 y1 lam : ZMod Config.p) :
    curve.addY x1 x2 y1 lam = lam * (x1 - curve.addX x1 x2 lam) - y1 := by
  rw [WeierstrassCurve.Affine.addY, curve_negY, WeierstrassCurve.Affine.negAddY]
  ring

/-- The curve is not singular: its discriminant is `-27 * 28^2`. -/
theorem curve_Δ_ne_zero : curve.Δ ≠ 0 := by
  have hΔ : curve.Δ = -((27 * 28 ^ 2 : Nat) : ZMod Config.p) := by
    simp only [curve, Config.curveB, WeierstrassCurve.Δ, WeierstrassCurve.b₂, WeierstrassCurve.b₄,
      WeierstrassCurve.b₆, WeierstrassCurve.b₈]
    push_cast
    ring
  rw [hΔ, neg_ne_zero, Ne, natCast_eq_zero_iff_mod]
  decide

theorem onCurve_affine_iff_equation (x y : Nat) : onCurve (.affine x y) = true ↔ curve.Equation x y := by
  rw [onCurve_affine_iff, curve_equation_iff, ← ZMod.natCast_eq_natCast_iff']
  push_cast
  rfl

/-! ### Its points as point values -/

/-- The point value of a point of the curve. -/
def Point.ofCurve : curve.Point → Point
  | .zero => .infinity
  | .some x y _ => .affine x.val y.val

theorem ofCurve_zero : Point.ofCurve (0 : curve.Point) = .infinity := rfl

section Group

variable [Fact Config.p.Prime]

theorem canonical_ofCurve (A : curve.Point) : (Point.ofCurve A).Canonical := by
  cases A with
  | zero => trivial
  | some x y h => exact ⟨x.val_lt, y.val_lt⟩

theorem onCurve_ofCurve (A : curve.Point) : onCurve (Point.ofCurve A) = true := by
  cases A with
  | zero => rfl
  | some x y h =>
    rw [Point.ofCurve, onCurve_affine_iff_equation, ZMod.natCast_zmod_val, ZMod.natCast_zmod_val]
    exact h.left

/-- Every canonical point value on the curve is the value of a point of the curve. -/
theorem exists_ofCurve_eq {P : Point} (hP : P.Canonical) (hon : onCurve P = true) : ∃ A, Point.ofCurve A = P := by
  cases P with
  | infinity => exact ⟨.zero, rfl⟩
  | affine x y =>
    obtain ⟨hx, hy⟩ := hP
    have heq : curve.Equation x y := (onCurve_affine_iff_equation x y).1 hon
    refine ⟨.some _ _ ((WeierstrassCurve.Affine.equation_iff_nonsingular_of_Δ_ne_zero curve_Δ_ne_zero).1 heq), ?_⟩
    rw [Point.ofCurve, ZMod.val_cast_of_lt hx, ZMod.val_cast_of_lt hy]

/-! ### The group law -/

theorem two_ne_zero_mod_p : (2 : ZMod Config.p) ≠ 0 := by
  rw [← Nat.cast_two, Ne, natCast_eq_zero_iff_mod]
  decide

theorem eq_neg_self_iff (y : ZMod Config.p) : y = -y ↔ y = 0 := by
  rw [eq_neg_iff_add_eq_zero, ← two_mul, mul_eq_zero, or_iff_right two_ne_zero_mod_p]

theorem val_mod_p_ne_zero {y : ZMod Config.p} (hy : y ≠ 0) : y.val % Config.p ≠ 0 := by
  rwa [Ne, ← natCast_eq_zero_iff_mod, ZMod.natCast_zmod_val]

/-- With the curve's slope, `linePoint` has the coordinates of the sum. -/
theorem linePoint_eq_affine_val {lam : Nat} {x1 x2 y1 L : ZMod Config.p} (h : (lam : ZMod Config.p) = L) :
    linePoint lam x1.val x2.val y1.val = .affine (curve.addX x1 x2 L).val (curve.addY x1 x2 y1 L).val := by
  subst h
  rw [linePoint, Point.affine.injEq, ← natCast_eq_natCast_iff_of_lt (fSub_lt _ _) (ZMod.val_lt _),
    ← natCast_eq_natCast_iff_of_lt (fSub_lt _ _) (ZMod.val_lt _), curve_addY, curve_addX]
  simp only [natCast_fSub, Nat.cast_mul, Nat.cast_add, ZMod.natCast_zmod_val, and_self]

/-- The tangent's slope is the curve's: both make `3 * x^2` with `2 * y`. -/
theorem natCast_tangentSlope_val (x : ZMod Config.p) {y : ZMod Config.p} (hy : y ≠ 0) :
    (tangentSlope x.val y.val : ZMod Config.p) = curve.slope x x y y := by
  have hslope := natCast_tangentSlope_mul x.val (val_mod_p_ne_zero hy)
  rw [ZMod.natCast_zmod_val, ZMod.natCast_zmod_val] at hslope
  have hne : y ≠ curve.negY x y := by rwa [curve_negY, Ne, eq_neg_self_iff]
  rw [WeierstrassCurve.Affine.slope_of_Y_ne rfl hne, eq_div_iff (sub_ne_zero.2 hne), curve_negY]
  simp only [curve]
  linear_combination hslope

/-- The chord's slope is the curve's: both make the difference of the y coordinates with that of the x. -/
theorem natCast_chordSlope_val {x1 x2 : ZMod Config.p} (y1 y2 : ZMod Config.p) (hx : x1 ≠ x2) :
    (chordSlope x1.val y1.val x2.val y2.val : ZMod Config.p) = curve.slope x1 x2 y1 y2 := by
  have hslope := natCast_chordSlope_mul y1.val y2.val x1.val_lt x2.val_lt ((ZMod.val_injective _).ne hx)
  simp only [ZMod.natCast_zmod_val] at hslope
  rw [WeierstrassCurve.Affine.slope_of_X_ne hx, eq_div_iff (sub_ne_zero.2 hx)]
  linear_combination -hslope

theorem pointDouble_ofCurve (A : curve.Point) : pointDouble (Point.ofCurve A) = Point.ofCurve (A + A) := by
  cases A with
  | zero => rfl
  | some x y h =>
    by_cases hy : y = 0
    · subst hy
      rw [WeierstrassCurve.Affine.Point.add_self_of_Y_eq (by rw [curve_negY, neg_zero]), ofCurve_zero, Point.ofCurve,
        ZMod.val_zero, pointDouble_of_y_eq_zero]
    · have hne : y ≠ curve.negY x y := by rwa [curve_negY, Ne, eq_neg_self_iff]
      rw [WeierstrassCurve.Affine.Point.add_self_of_Y_ne hne, Point.ofCurve, Point.ofCurve,
        pointDouble_of_y_ne_zero x.val ((ZMod.val_ne_zero y).2 hy),
        linePoint_eq_affine_val (natCast_tangentSlope_val x hy)]

/-- `pointAdd` is the group law: for equal x coordinates the points are equal or opposite. -/
theorem pointAdd_ofCurve (A B : curve.Point) :
    pointAdd (Point.ofCurve A) (Point.ofCurve B) = Point.ofCurve (A + B) := by
  by_cases hAB : A = B
  · rw [hAB, pointAdd_self, pointDouble_ofCurve]
  cases A with
  | zero => exact (pointAdd_infinity_left _).trans (congrArg Point.ofCurve (zero_add B).symm)
  | some x1 y1 h1 =>
    cases B with
    | zero => exact pointAdd_infinity_right _
    | some x2 y2 h2 =>
      by_cases hx : x1 = x2
      · subst hx
        have hy : y1 ≠ y2 := fun hy => hAB (by subst hy; rfl)
        have hopposite : y1 = curve.negY x1 y2 :=
          (WeierstrassCurve.Affine.Y_eq_of_X_eq h1.left h2.left rfl).resolve_left hy
        rw [WeierstrassCurve.Affine.Point.add_of_Y_eq rfl hopposite, ofCurve_zero]
        exact pointAdd_of_y_ne x1.val ((ZMod.val_injective _).ne hy)
      · rw [WeierstrassCurve.Affine.Point.add_of_X_ne hx, Point.ofCurve, Point.ofCurve, Point.ofCurve,
          pointAdd_of_x_ne y1.val y2.val ((ZMod.val_injective _).ne hx),
          linePoint_eq_affine_val (natCast_chordSlope_val y1 y2 hx)]

theorem ofCurve_neg {A : curve.Point} {x y : Nat} (h : Point.ofCurve A = .affine x y) :
    Point.ofCurve (-A) = .affine x ((Config.p - y) % Config.p) := by
  cases A with
  | zero => cases h
  | some X Y hXY =>
    cases h
    rw [WeierstrassCurve.Affine.Point.neg_some, Point.ofCurve, curve_negY, ZMod.neg_val']

end Group

/-- Settles O27: the laws of the group of the curve's points, read off at their values. -/
theorem pointsFormAGroup : Obligations.PointsFormAGroup := by
  intro P Q R hP hQ hR hPon hQon hRon
  have := fact_prime_p
  obtain ⟨A, rfl⟩ := exists_ofCurve_eq hP hPon
  obtain ⟨B, rfl⟩ := exists_ofCurve_eq hQ hQon
  obtain ⟨C, rfl⟩ := exists_ofCurve_eq hR hRon
  refine ⟨canonical_pointAdd hP hQ, ?_, canonical_pointDouble _, ?_, ?_, ?_, pointAdd_infinity_right _,
    pointAdd_infinity_left _, pointAdd_self _, fun x y hxy => ?_⟩
  · rw [pointAdd_ofCurve]
    exact onCurve_ofCurve _
  · rw [pointDouble_ofCurve]
    exact onCurve_ofCurve _
  · rw [pointAdd_ofCurve, pointAdd_ofCurve, add_comm]
  · simp only [pointAdd_ofCurve, add_assoc]
  · rw [← ofCurve_neg hxy, pointAdd_ofCurve, add_neg_cancel, ofCurve_zero]

end Sys2Proof.Machine
end

section
/-! PROOFS. The loop of `multiply` (42_scalarmul.md R161, R163), for every point: one round at a time it makes the
rounds of `doubleAndAdd`. -/

namespace Sys2Proof.Machine

/-! ### The loop and its rounds -/

theorem multiplyLoop_zero (fuel : Nat) (R A : Point) : multiplyLoop fuel 0 R A = R := by
  cases fuel <;> rfl

/-- One round of the loop. It holds for the scalar 0 as well, where the loop makes no round and a round
would add nothing to `result`. -/
theorem multiplyLoop_eq_round {fuel k : Nat} (R A : Point) (h : k < 2 ^ fuel) :
    multiplyLoop fuel k R A =
      multiplyLoop (fuel - 1) (k / 2) (if k % 2 = 1 then pointAdd R A else R) (pointDouble A) := by
  by_cases hk : k = 0
  · subst hk
    rw [multiplyLoop_zero, Nat.zero_div, multiplyLoop_zero, if_neg (by decide)]
  · cases fuel with
    | zero => exact absurd (Nat.lt_one_iff.1 h) hk
    | succ fuel => exact if_neg hk

theorem half_lt_two_pow_pred {k fuel : Nat} (h : k < 2 ^ fuel) : k / 2 < 2 ^ (fuel - 1) := by
  cases fuel with
  | zero => exact (Nat.div_le_self k 2).trans_lt h
  | succ fuel => exact Nat.div_lt_of_lt_mul (Nat.pow_succ' ▸ h)

/-- Round `i` of R161 on the bits of `k`, from `result` and `addend`. -/
def doubleAndAddRound (k : Nat) (ra : Point × Point) (i : Nat) : Point × Point :=
  (if k.testBit i then pointAdd ra.1 ra.2 else ra.1, pointDouble ra.2)

theorem doubleAndAdd_eq_foldl_round (k m : Nat) (B : Point) :
    doubleAndAdd k m B = ((List.range m).foldl (doubleAndAddRound k) (.infinity, B)).1 := rfl

theorem doubleAndAddRound_zero (k : Nat) (R A : Point) :
    doubleAndAddRound k (R, A) 0 = (if k % 2 = 1 then pointAdd R A else R, pointDouble A) := by
  simp [doubleAndAddRound]

theorem doubleAndAddRound_succ (k : Nat) (ra : Point × Point) (i : Nat) :
    doubleAndAddRound k ra (i + 1) = doubleAndAddRound (k / 2) ra i := by
  simp only [doubleAndAddRound, Nat.testBit_succ]

/-- The rounds over the bits from 0 up are the loop that halves the scalar, however many more rounds either makes
than the scalar has bits. -/
theorem fst_foldl_round_eq_multiplyLoop {m fuel k : Nat} (R A : Point) (hm : k < 2 ^ m) (hfuel : k < 2 ^ fuel) :
    ((List.range m).foldl (doubleAndAddRound k) (R, A)).1 = multiplyLoop fuel k R A := by
  induction m generalizing fuel k R A with
  | zero =>
    obtain rfl : k = 0 := Nat.lt_one_iff.1 hm
    rw [multiplyLoop_zero]
    rfl
  | succ m ih =>
    rw [multiplyLoop_eq_round R A hfuel, ← ih _ _ (half_lt_two_pow_pred hm) (half_lt_two_pow_pred hfuel),
      List.range_succ_eq_map, List.foldl_cons, List.foldl_map, doubleAndAddRound_zero]
    simp only [Nat.succ_eq_add_one, doubleAndAddRound_succ]

theorem doubleAndAdd_eq_multiply {k m : Nat} (B : Point) (hk : k < 2 ^ 256) (hm : bitlen k ≤ m) :
    doubleAndAdd k m B = multiply k B := by
  rw [doubleAndAdd_eq_foldl_round]
  exact fst_foldl_round_eq_multiplyLoop _ _ ((bitlen_le_iff k m).1 hm) hk

/-! ### The smallest scalars -/

theorem multiply_zero (B : Point) : multiply 0 B = .infinity := multiplyLoop_zero _ _ _

theorem multiply_one (B : Point) : multiply 1 B = B := by
  rw [multiply, multiplyLoop_eq_round _ _ (by decide), multiplyLoop_zero]
  exact pointAdd_infinity_left B

theorem multiply_two (B : Point) : multiply 2 B = pointDouble B := by
  rw [multiply, multiplyLoop_eq_round _ _ (by decide), multiplyLoop_eq_round _ _ (by decide), multiplyLoop_zero]
  exact pointAdd_infinity_left _

/-! ### The result is canonical -/

theorem canonical_multiplyLoop (fuel k : Nat) {R A : Point} (hR : R.Canonical) (hA : A.Canonical) :
    (multiplyLoop fuel k R A).Canonical := by
  induction fuel generalizing k R A with
  | zero => exact hR
  | succ fuel ih =>
    rw [multiplyLoop]
    split
    next => exact hR
    next =>
      refine ih _ ?_ (canonical_pointDouble A)
      split
      next => exact canonical_pointAdd hR hA
      next => exact hR

theorem canonical_multiply (k : Nat) {B : Point} (hB : B.Canonical) : (multiply k B).Canonical :=
  canonical_multiplyLoop 256 k trivial hB

end Sys2Proof.Machine
end

section
/-! PROOFS. `multiply` on the curve (42_scalarmul.md R162): it computes the multiple in the group of R147, where
G has the prime order n. -/

namespace Sys2Proof.Machine

/-! ### The base point as a canonical point of the curve -/

theorem n_lt_two_pow : Config.n < 2 ^ 256 := by decide

theorem canonical_basePoint : basePoint.Canonical := ⟨by decide, by decide⟩

theorem onCurve_basePoint : onCurve basePoint = true := (onCurve_affine_iff _ _).2 basePoint_equation

/-! ### Multiples in the group of the curve's points -/

section Group

variable [Fact Config.p.Prime]

theorem ofCurve_injective : Function.Injective Point.ofCurve := by
  intro A B h
  cases A with
  | zero =>
    cases B with
    | zero => rfl
    | some => cases h
  | some x y =>
    cases B with
    | zero => cases h
    | some x' y' =>
      obtain ⟨hx, hy⟩ := Point.affine.inj h
      obtain rfl := ZMod.val_injective _ hx
      obtain rfl := ZMod.val_injective _ hy
      rfl

/-- The loop adds to `result` the multiple of `addend` that is still to come. -/
theorem multiplyLoop_ofCurve {fuel k : Nat} (R A : curve.Point) (h : k < 2 ^ fuel) :
    multiplyLoop fuel k (Point.ofCurve R) (Point.ofCurve A) = Point.ofCurve (R + k • A) := by
  induction fuel generalizing k R A with
  | zero =>
    obtain rfl : k = 0 := Nat.lt_one_iff.1 h
    rw [multiplyLoop_zero, zero_nsmul, add_zero]
  | succ fuel ih =>
    have hdouble : (k / 2) • (A + A) = (2 * (k / 2)) • A := by rw [← two_nsmul, mul_nsmul]
    rw [multiplyLoop_eq_round _ _ h, pointDouble_ofCurve, pointAdd_ofCurve, ← apply_ite, Nat.add_sub_cancel,
      ih _ _ (half_lt_two_pow_pred h), hdouble]
    split
    next hodd =>
      have hk : 1 + 2 * (k / 2) = k := by omega
      rw [add_assoc, ← succ_nsmul', Nat.add_comm, hk]
    next heven =>
      have hk : 2 * (k / 2) = k := by omega
      rw [hk]

/-- `multiply` computes the multiple in the group (R162). -/
theorem multiply_ofCurve {k : Nat} (A : curve.Point) (h : k < 2 ^ 256) :
    multiply k (Point.ofCurve A) = Point.ofCurve (k • A) := by
  rw [multiply, ← ofCurve_zero, multiplyLoop_ofCurve 0 A h, zero_add]

/-! ### Multiples of the base point -/

theorem exists_ofCurve_eq_basePoint : ∃ G : curve.Point, Point.ofCurve G = basePoint :=
  exists_ofCurve_eq canonical_basePoint onCurve_basePoint

/-- G has the order n, since n is prime and the multiple of G by n is Infinity (00_scope.md R9, R10). -/
theorem addOrderOf_of_ofCurve_eq_basePoint {G : curve.Point} (hG : Point.ofCurve G = basePoint) :
    addOrderOf G = Config.n := by
  have : Fact Config.n.Prime := ⟨Primality.prime_n⟩
  have hmultiple : Config.n • G = 0 := by
    apply ofCurve_injective
    rw [← multiply_ofCurve G n_lt_two_pow, hG, multiply_order_basePoint, ofCurve_zero]
  have hne : G ≠ 0 := fun hzero => by
    rw [hzero, ofCurve_zero] at hG
    cases hG
  exact addOrderOf_eq_prime hmultiple hne

end Group

/-- Scalars count modulo n for G (R162). -/
theorem multiply_basePoint_mod {k : Nat} (h : k < 2 ^ 256) :
    multiply k basePoint = multiply (k % Config.n) basePoint := by
  have := fact_prime_p
  obtain ⟨G, hG⟩ := exists_ofCurve_eq_basePoint
  rw [← hG, multiply_ofCurve G h, multiply_ofCurve G ((Nat.mod_le _ _).trans_lt h),
    ← addOrderOf_of_ofCurve_eq_basePoint hG, mod_addOrderOf_nsmul]

/-- Settles O28: the loop is `doubleAndAdd`, and on the curve it is the multiple in the group. -/
theorem additiveHomomorphism : Obligations.AdditiveHomomorphism := by
  refine ⟨fun B => ⟨multiply_zero B, multiply_one B, multiply_two B⟩, fun _ _ B => doubleAndAdd_eq_multiply B,
    fun a b B hB hon hlt => ?_, fun _ => multiply_basePoint_mod⟩
  have := fact_prime_p
  obtain ⟨A, rfl⟩ := exists_ofCurve_eq hB hon
  have ha : a < 2 ^ 256 := (Nat.le_add_right a b).trans_lt hlt
  have hb : b < 2 ^ 256 := (Nat.le_add_left b a).trans_lt hlt
  rw [multiply_ofCurve A hlt, multiply_ofCurve A ha, multiply_ofCurve A hb, pointAdd_ofCurve, add_nsmul]

/-- Settles O29: below the order of G no multiple of G is the neutral element and no two are equal. -/
theorem validMultiplesAreDistinctPoints : Obligations.ValidMultiplesAreDistinctPoints := by
  intro k hpos hk
  have := fact_prime_p
  obtain ⟨G, hG⟩ := exists_ofCurve_eq_basePoint
  have horder := addOrderOf_of_ofCurve_eq_basePoint hG
  have hmultiple : ∀ j < Config.n, multiply j basePoint = Point.ofCurve (j • G) := fun j hj =>
    hG ▸ multiply_ofCurve G (hj.trans n_lt_two_pow)
  rw [hmultiple k hk]
  refine ⟨onCurve_ofCurve _, fun hinf => ?_, fun j _ hj hjk => ?_⟩
  · have hzero : k • G = 0 := ofCurve_injective (hinf.trans ofCurve_zero.symm)
    exact nsmul_ne_zero_of_lt_addOrderOf (Nat.ne_of_gt hpos) (horder ▸ hk) hzero
  · rw [hmultiple j hj] at hjk
    exact nsmul_injOn_Iio_addOrderOf (horder ▸ hj) (horder ▸ hk) (ofCurve_injective hjk)

end Sys2Proof.Machine
end

section
/-! PROOFS. The commands PMUL, PMULG and SCHK (42_scalarmul.md R160, R165, R166). -/

namespace Sys2Proof.Machine

/-- Settles O30: the register holds `multiply` of the raw scalar, which makes the rounds of R161. -/
theorem pmulResult : Obligations.PmulResult := by
  intro pd rs ps s hwf
  rw [doubleAndAdd_eq_multiply _ (s.reg rs.toNat).isLt le_rfl]
  exact ⟨toNat_encode _, exists_onlyPoint_of_exec_eq hwf rfl (canonical_multiply _ (s.canonical_pt ps)) rfl⟩

/-! ### The range check -/

theorem validScalar_iff (k : Nat) : validScalar k = true ↔ 1 ≤ k ∧ k < Config.n := by
  rw [validScalar, decide_eq_true_iff, Nat.one_le_iff_ne_zero]

theorem not_validScalar_iff (k : Nat) : ¬validScalar k = true ↔ k = 0 ∨ Config.n ≤ k := by
  rw [validScalar_iff]
  omega

section Commands

variable {s : State} {rs : Index}

theorem exec_pmulg_of_not_validScalar (pd : Index) (h : ¬validScalar (s.scalar rs) = true) :
    exec (.pmulg pd rs) s = s.conclude (.error .invalidScalar) :=
  congrArg s.conclude (if_neg h)

theorem exec_pmulg_of_validScalar (pd : Index) (h : validScalar (s.scalar rs) = true) :
    exec (.pmulg pd rs) s = s.conclude (.ok (s.writePoint pd.toNat (multiply (s.scalar rs) basePoint))) :=
  congrArg s.conclude (if_pos h)

theorem exec_schk_of_not_validScalar (h : ¬validScalar (s.scalar rs) = true) :
    exec (.schk rs) s = s.conclude (.error .invalidScalar) :=
  congrArg s.conclude (if_neg h)

theorem exec_schk_of_validScalar (h : validScalar (s.scalar rs) = true) : exec (.schk rs) s = s.conclude (.ok s) :=
  congrArg s.conclude (if_pos h)

end Commands

theorem inf_eq_false_of_holdsPoint {v : PointReg} {P : Point} (h : HoldsPoint v P) (hP : P ≠ .infinity) :
    v.inf = false := by
  cases P with
  | infinity => exact absurd rfl hP
  | affine x y =>
    obtain ⟨hinf, -⟩ := h
    exact hinf

/-- Completion with nothing written: only the life of the command changes. -/
theorem State.onlyCompleted_finish (s : State) : OnlyCompleted s s.finish :=
  ⟨⟨rfl, rfl, rfl⟩, fun _ => rfl, fun _ => rfl, fun _ => ⟨rfl, fun _ => rfl⟩, ⟨rfl, rfl, rfl, rfl⟩, rfl, rfl⟩

/-- Settles O31: by the range check; a valid scalar's multiple of G is not Infinity by O29. -/
theorem pmulgResult : Obligations.PmulgResult := by
  rintro pd rs s _ hwf rfl
  refine ⟨toNat_encode _, fun hinvalid => ?_, fun hvalid => ?_⟩
  · exact ⟨_, exec_pmulg_of_not_validScalar pd ((not_validScalar_iff _).2 hinvalid), s.raised_raise .invalidScalar⟩
  · obtain ⟨t, he, honly, hholds⟩ := exists_onlyPoint_of_exec_eq hwf rfl (canonical_multiply _ canonical_basePoint)
      (exec_pmulg_of_validScalar pd ((validScalar_iff _).2 hvalid))
    obtain ⟨hpos, hlt⟩ := hvalid
    obtain ⟨-, hne, -⟩ := validMultiplesAreDistinctPoints _ hpos hlt
    rw [doubleAndAdd_eq_multiply _ (s.reg rs.toNat).isLt le_rfl]
    exact ⟨t, he, honly, hholds, inf_eq_false_of_holdsPoint hholds hne⟩

/-- Settles O32: the range check alone decides how the command ends. -/
theorem schkResult : Obligations.SchkResult := by
  rintro rs s _ _ rfl
  refine ⟨toNat_encode _, fun hinvalid => ?_, fun hvalid => ?_⟩
  · exact ⟨_, exec_schk_of_not_validScalar ((not_validScalar_iff _).2 hinvalid), s.raised_raise .invalidScalar⟩
  · exact ⟨_, exec_schk_of_validScalar ((validScalar_iff _).2 hvalid), s.onlyCompleted_finish⟩

end Sys2Proof.Machine
end

section
/-! PROOFS. A command that writes a byte string to a buffer: its one destination, with what it leaves unchanged
(10_state.md R30). -/

namespace Sys2Proof.Machine

/-- The destination buffer of a well-formed command exists (R93). -/
theorem lt_nBuf_of_writesBuf {i : Instr} {d : Index} (hwf : i.wellFormed = true) (hd : writesBuf i = some d) :
    d.toNat < Config.nBuf := by
  cases i with
  | serc | seru | sha256 | rmd160 | hash160 | b58enc | b58dec | r2b | bapp =>
    cases hd
    simp only [Instr.wellFormed, bufOk, Bool.and_eq_true, decide_eq_true_eq] at hwf
    tauto
  | fadd | fsub | fmul | fneg | finv | pdbl | padd | pchk | pmul | pmulg | schk | b2r => cases hd

/-- Completion with a buffer written: everything but that buffer is as before. -/
theorem State.onlyBuf_finish_writeString (s : State) (k : Nat) (str : Bytes) :
    OnlyBuf s (s.writeString k str).finish k :=
  ⟨⟨rfl, rfl, rfl⟩, fun _ => rfl, fun _ => rfl, fun _ hj => sameBuf_of_buf_eq (s.buf_setBuf_ne hj.symm _),
    ⟨rfl, rfl, rfl, rfl⟩, rfl, rfl⟩

/-- A command whose pseudocode writes a byte string to its destination completes and leaves the string there. -/
theorem exists_onlyBuf_of_exec_eq {i : Instr} {s : State} {d : Index} {str : Bytes} (hwf : i.wellFormed = true)
    (hd : writesBuf i = some d) (he : exec i s = s.conclude (.ok (s.writeString d.toNat str))) :
    ∃ t, exec i s = .next t ∧ OnlyBuf s t d.toNat ∧ BufHolds t d.toNat str :=
  ⟨_, he, s.onlyBuf_finish_writeString d.toNat str, s.bufHolds_writeString (lt_nBuf_of_writesBuf hwf hd) str⟩

end Sys2Proof.Machine
end

section
/-! PROOFS. The commands SERC and SERU (43_pubkey.md R181, R182): each writes what its serialiser makes of the source
point, or raises its error. -/

namespace Sys2Proof.Machine

/-! ### A command that serialises a point -/

section Serialise

variable {i : Instr} {s : State} {bd ps1 : Index} {ser : Point → Except CmdError Bytes}

/-- A serialiser with no encoding of Infinity makes the command raise its error for a source that is Infinity. -/
theorem exists_raised_of_inf {e : CmdError} (he : exec i s = s.conclude ((ser (s.pt ps1)).map (s.writeString bd.toNat)))
    (hser : ser .infinity = .error e) (hinf : (s.point ps1.toNat).inf = true) :
    ∃ t, exec i s = .next t ∧ Raised s t e.number := by
  rw [State.pt_of_inf hinf, hser] at he
  exact ⟨_, he, s.raised_raise e⟩

/-- For any other source the destination holds the encoding of its reduced coordinates (R26). -/
theorem exists_onlyBuf_of_not_inf {str : Bytes} (hwf : i.wellFormed = true) (hd : writesBuf i = some bd)
    (he : exec i s = s.conclude ((ser (s.pt ps1)).map (s.writeString bd.toNat)))
    (hser : ser (.affine ((s.point ps1.toNat).x.toNat % Config.p) ((s.point ps1.toNat).y.toNat % Config.p)) = .ok str)
    (hinf : (s.point ps1.toNat).inf = false) :
    ∃ t, exec i s = .next t ∧ OnlyBuf s t bd.toNat ∧ BufHolds t bd.toNat str := by
  rw [State.pt_of_not_inf (Bool.eq_false_iff.1 hinf), hser] at he
  exact exists_onlyBuf_of_exec_eq hwf hd he

end Serialise

/-! ### The two commands -/

/-- Settles O33: `compress` has no encoding of Infinity, and takes an affine point's parity and x from its reduced
coordinates. -/
theorem sercResult : Obligations.SercResult := fun _ _ _ hwf =>
  ⟨toNat_encode _, exists_raised_of_inf (ser := compress) rfl rfl,
    exists_onlyBuf_of_not_inf (ser := compress) hwf rfl rfl rfl⟩

/-- Settles O34: `uncompressed` has no encoding of Infinity, and writes an affine point's reduced coordinates. -/
theorem seruResult : Obligations.SeruResult := fun _ _ _ hwf =>
  ⟨toNat_encode _, exists_raised_of_inf (ser := uncompressed) rfl rfl,
    exists_onlyBuf_of_not_inf (ser := uncompressed) hwf rfl rfl rfl⟩

end Sys2Proof.Machine
end

section
/-! PROOFS. A byte string cut into pieces of one length (the blocks of 44_hash.md R191, the words of R193). -/

namespace Sys2Proof.Machine

theorem length_pieces (n k : Nat) (s : Bytes) : (pieces n s k).length = k := by
  induction k generalizing s with
  | zero => rfl
  | succ k ih => rw [pieces, List.length_cons, ih]

/-- Piece `i` stands at byte `n * i`. -/
theorem getElem_pieces (n : Nat) {s : Bytes} {k i : Nat} (h : i < (pieces n s k).length) :
    (pieces n s k)[i] = (s.drop (n * i)).take n := by
  induction k generalizing s i with
  | zero => cases h
  | succ k ih =>
    cases i with
    | zero => simp [pieces]
    | succ i => simp [pieces, ih, Nat.mul_succ, Nat.add_comm]

/-- Pieces that reach the end of the string are together the string. -/
theorem flatten_pieces {n k : Nat} {s : Bytes} (h : s.length ≤ n * k) : (pieces n s k).flatten = s := by
  induction k generalizing s with
  | zero =>
    obtain rfl : s = [] := List.length_eq_zero_iff.1 (by omega)
    rfl
  | succ k ih =>
    have hrest : (s.drop n).length ≤ n * k := by
      rw [List.length_drop]
      rw [Nat.mul_succ] at h
      omega
    rw [pieces, List.flatten_cons, ih hrest, List.take_append_drop]

/-- Pieces that do not pass the end of the string are all of the full length. -/
theorem length_of_mem_pieces {n k : Nat} {s B : Bytes} (h : n * k ≤ s.length) (hB : B ∈ pieces n s k) :
    B.length = n := by
  obtain ⟨i, hi, rfl⟩ := List.getElem_of_mem hB
  have hend : n * (i + 1) ≤ n * k := Nat.mul_le_mul_left n (length_pieces n k s ▸ hi)
  rw [Nat.mul_succ] at hend
  rw [getElem_pieces, List.length_take, List.length_drop]
  omega

end Sys2Proof.Machine
end

section
/-! PROOFS. The padding of both hashes (44_hash.md R191, R201). -/

namespace Sys2Proof.Machine

/-- The padding fills whole blocks (R191). -/
theorem add_padZeros_eq (L : Nat) : L + 9 + padZeros L = 64 * blockCount L := by
  unfold blockCount padZeros
  omega

/-- No shorter run of zero bytes fills whole blocks. -/
theorem padZeros_le {L j : Nat} (h : (L + 1 + j + 8) % 64 = 0) : padZeros L ≤ j := by
  unfold padZeros
  omega

theorem intCast_padZeros (L : Nat) : (padZeros L : Int) = (55 - (L : Int)) % 64 := by
  unfold padZeros
  omega

/-- The blocks of R191 by the range of the length. -/
theorem blockCount_values (L : Nat) :
    (L ≤ 55 → blockCount L = 1) ∧ (56 ≤ L ∧ L ≤ 119 → blockCount L = 2) ∧
      (120 ≤ L ∧ L ≤ 128 → blockCount L = 3) := by
  unfold blockCount padZeros
  omega

/-- A message, 0x80, its zero bytes and any eight bytes of length fill the message's blocks. -/
theorem length_padded (M : Bytes) {tail : Bytes} (htail : tail.length = 8) :
    (M ++ [0x80] ++ zeros (padZeros M.length) ++ tail).length = 64 * blockCount M.length := by
  rw [← add_padZeros_eq]
  simp only [List.length_append, List.length_singleton, length_zeros, htail]
  omega

theorem length_shaPad (M : Bytes) : (shaPad M).length = 64 * blockCount M.length := length_padded M (length_be _ _)

theorem length_rmdPad (M : Bytes) : (rmdPad M).length = 64 * blockCount M.length := length_padded M (length_le _ _)

/-- Settles O38: with `k` the model's `padZeros`; both padded messages are exactly as long as their blocks. -/
theorem paddingMakesWholeBlocks : Obligations.PaddingMakesWholeBlocks := by
  rintro M _ rfl
  have hsha := length_shaPad M
  have hrmd := length_rmdPad M
  have hfill := add_padZeros_eq M.length
  refine ⟨⟨padZeros M.length, rfl, rfl, by omega, fun _ => padZeros_le, intCast_padZeros _, rfl⟩, hsha, hrmd,
    flatten_pieces hsha.le, flatten_pieces hrmd.le, fun _ => length_of_mem_pieces hsha.ge,
    fun _ => length_of_mem_pieces hrmd.ge, blockCount_values _⟩

end Sys2Proof.Machine
end

section
/-! PROOFS. The message schedule of SHA-256 (44_hash.md R193). The model extends it newest word first; the lemmas
here say what each place of the extended list holds, and turn places into word numbers. -/

namespace Sys2Proof.Machine

/-- A big-endian word is the weighted sum of its bytes (00_scope.md R16). -/
theorem toNat_be32w (s : Bytes) :
    (be32w s).toNat =
      16777216 * (s.getD 0 0).toNat + 65536 * (s.getD 1 0).toNat + 256 * (s.getD 2 0).toNat + (s.getD 3 0).toNat := by
  simp only [be32w, toNat_append_eq_add]
  omega

/-! ### Extending a schedule kept newest word first -/

/-- The word that follows those of `ws`, by the recurrence of R193. -/
def shaNext (ws : List Word32) : Word32 :=
  shaSsig1 (ws.getD 1 0) + ws.getD 6 0 + shaSsig0 (ws.getD 14 0) + ws.getD 15 0

/-- The last of the added words comes from all the others. -/
theorem shaExtend_succ (k : Nat) (ws : List Word32) :
    shaExtend (k + 1) ws = shaNext (shaExtend k ws) :: shaExtend k ws := by
  induction k generalizing ws with
  | zero => rfl
  | succ k ih => exact ih (shaNext ws :: ws)

theorem length_shaExtend (k : Nat) (ws : List Word32) : (shaExtend k ws).length = k + ws.length := by
  induction k with
  | zero => rw [shaExtend, Nat.zero_add]
  | succ k ih =>
    rw [shaExtend_succ, List.length_cons, ih]
    omega

/-- `k` words more move the words before them by `k` places. -/
theorem getD_shaExtend_add (k m i : Nat) (ws : List Word32) :
    (shaExtend (m + k) ws).getD (i + k) 0 = (shaExtend m ws).getD i 0 := by
  induction k with
  | zero => rfl
  | succ k ih => rw [← Nat.add_assoc, shaExtend_succ, ← Nat.add_assoc, List.getD_cons_succ, ih]

/-! ### The schedule of a block -/

/-- `W[0..15]`: the block's words (R193). -/
def blockWords (block : Bytes) : List Word32 := (pieces 4 block 16).map be32w

theorem length_blockWords (block : Bytes) : (blockWords block).length = 16 := by
  rw [blockWords, List.length_map, length_pieces]

/-- The first `16 + m` words of the schedule, newest first. -/
def newestFirst (block : Bytes) (m : Nat) : List Word32 := shaExtend m (blockWords block).reverse

theorem length_newestFirst (block : Bytes) (m : Nat) : (newestFirst block m).length = m + 16 := by
  rw [newestFirst, length_shaExtend, List.length_reverse, length_blockWords]

theorem shaSchedule_eq_reverse (block : Bytes) : shaSchedule block = (newestFirst block 48).reverse := rfl

theorem length_shaSchedule (block : Bytes) : (shaSchedule block).length = 64 := by
  rw [shaSchedule_eq_reverse, List.length_reverse, length_newestFirst]

/-- Place `i` of the first `16 + m` words, newest first, is word `15 + m - i` of the schedule. -/
theorem getD_newestFirst {block : Bytes} {m i : Nat} (hm : m ≤ 48) (hi : i < m + 16) :
    (newestFirst block m).getD i 0 = (shaSchedule block).getD (15 + m - i) 0 := by
  have hlen := length_newestFirst block 48
  have hplace : (newestFirst block 48).length - 1 - (15 + m - i) = i + (48 - m) := by omega
  have hall := getD_shaExtend_add (48 - m) m i (blockWords block).reverse
  rw [Nat.add_sub_cancel' hm] at hall
  rw [shaSchedule_eq_reverse, List.getD_reverse _ (by omega), hplace]
  exact hall.symm

/-- The schedule begins with the block's words. -/
theorem getD_shaSchedule_of_lt (block : Bytes) {t : Nat} (ht : t < 16) :
    (shaSchedule block).getD t 0 = be32w ((block.drop (4 * t)).take 4) := by
  have hlen := length_blockWords block
  have hword : 15 + 0 - (15 - t) = t := by omega
  have hplace : 16 - 1 - (15 - t) = t := by omega
  calc (shaSchedule block).getD t 0
      = (newestFirst block 0).getD (15 - t) 0 := by rw [getD_newestFirst (by omega) (by omega), hword]
    _ = (blockWords block).getD t 0 := by
      rw [newestFirst, shaExtend, List.getD_reverse _ (by omega), hlen, hplace]
    _ = be32w ((block.drop (4 * t)).take 4) := by
      rw [List.getD_eq_getElem _ _ (by omega)]
      exact (List.getElem_map _).trans (congrArg be32w (getElem_pieces 4 (by rw [length_pieces]; exact ht)))

/-- Every later word is the next of the words before it. -/
theorem getD_shaSchedule_add_16 (block : Bytes) {m : Nat} (hm : m < 48) :
    (shaSchedule block).getD (m + 16) 0 = shaNext (newestFirst block m) := by
  have hnewest : (newestFirst block (m + 1)).getD 0 0 = (shaSchedule block).getD (15 + (m + 1) - 0) 0 :=
    getD_newestFirst (by omega) (by omega)
  have hplace : 15 + (m + 1) - 0 = m + 16 := by omega
  rw [← hplace, ← hnewest, newestFirst, shaExtend_succ, List.getD_cons_zero, newestFirst]

/-- Settles O39: the first words are pieces of the block, the later ones the recurrence at their places. -/
theorem scheduleFollowsTheRecurrence : Obligations.ScheduleFollowsTheRecurrence := by
  refine fun block _ => ⟨length_shaSchedule block, fun t ht => ?_, ?_⟩
  · rw [getD_shaSchedule_of_lt block ht, toNat_be32w]
    simp [List.getD_eq_getElem?_getD, List.getElem?_drop]
  · rintro t hlow hhigh _ _ rfl rfl
    obtain ⟨m, rfl⟩ : ∃ m, t = m + 16 := ⟨t - 16, by omega⟩
    have hm : m < 48 := by omega
    have hplace (i : Nat) (hi : i < 16) :
        (newestFirst block m).getD i 0 = (shaSchedule block).getD (m + 16 - (i + 1)) 0 := by
      rw [getD_newestFirst hm.le (by omega)]
      congr 1
      omega
    rw [getD_shaSchedule_add_16 block hm, shaNext, hplace 1 (by decide), hplace 6 (by decide), hplace 14 (by decide),
      hplace 15 (by decide)]
    rfl

end Sys2Proof.Machine
end

section
/-! PROOFS. The commands SHA256, RMD160 and HASH160 (44_hash.md R196, R206, R210). -/

namespace Sys2Proof.Machine

/-- A command that writes a string of a known length to its destination leaves that length there. -/
theorem exists_onlyBuf_len_of_exec_eq {i : Instr} {s : State} {d : Index} {str : Bytes} {n : Nat}
    (hwf : i.wellFormed = true) (hd : writesBuf i = some d) (hlen : str.length = n)
    (he : exec i s = s.conclude (.ok (s.writeString d.toNat str))) :
    ∃ t, exec i s = .next t ∧ OnlyBuf s t d.toNat ∧ BufHolds t d.toNat str ∧ (t.buf d.toNat).len = n := by
  obtain ⟨t, hexec, honly, hlen', hbytes⟩ := exists_onlyBuf_of_exec_eq hwf hd he
  exact ⟨t, hexec, honly, ⟨hlen', hbytes⟩, hlen'.trans hlen⟩

/-- Settles O35: the digest is the string written. -/
theorem sha256Result : Obligations.Sha256Result := fun _ _ _ hwf =>
  ⟨toNat_encode _, exists_onlyBuf_len_of_exec_eq hwf rfl (length_sha256 _) rfl⟩

/-- Settles O36: the digest is the string written. -/
theorem rmd160Result : Obligations.Rmd160Result := fun _ _ _ hwf =>
  ⟨toNat_encode _, exists_onlyBuf_len_of_exec_eq hwf rfl (length_ripemd160 _) rfl⟩

theorem State.buf_finish_writeString (s : State) {k : Nat} (hk : k < Config.nBuf) (str : Bytes) :
    (s.writeString k str).finish.buf k = ⟨str.length, Memory.ofBytes 0 str⟩ :=
  State.buf_setBuf_self s hk _

/-- RMD160 in place hashes what SHA256 left, and so leaves what HASH160 leaves (R210). -/
theorem exec_sha256_then_rmd160 {bd bs1 : Index} {s t : State} (hbd : bd.toNat < Config.nBuf)
    (ht : exec (.hash160 bd bs1) s = .next t) :
    ∃ u v, exec (.sha256 bd bs1) s = .next u ∧ exec (.rmd160 bd bd) u = .next v ∧ v.buf bd.toNat = t.buf bd.toNat := by
  obtain rfl : (s.writeString bd.toNat (hash160 (s.contents bs1))).finish = t := Host.Outcome.next.inj ht
  refine ⟨_, _, rfl, rfl, ?_⟩
  have hbetween : (s.writeString bd.toNat (sha256 (s.contents bs1))).finish.contents bd = sha256 (s.contents bs1) :=
    State.contents_writeString s hbd _
  rw [State.buf_finish_writeString _ hbd, State.buf_finish_writeString _ hbd, hbetween, hash160]

/-- Settles O37: `hash160` is the one hash of the other, and both ways write it. -/
theorem hash160Result : Obligations.Hash160Result := by
  intro bd bs1 s hwf
  obtain ⟨t, hexec, honly, hholds, hlen⟩ := exists_onlyBuf_len_of_exec_eq hwf rfl (length_hash160 _) rfl
  exact ⟨toNat_encode _, t, hexec, honly, hholds, hlen, exec_sha256_then_rmd160 (lt_nBuf_of_writesBuf hwf rfl) hexec⟩

/-! ### Known answers -/

/-- SHA-256 of the empty message (R196); the double hash of R212 begins with it. -/
theorem sha256_nil : sha256 [] = be 0xE3B0C44298FC1C149AFBF4C8996FB92427AE41E4649B934CA495991B7852B855 32 := by
  decide +kernel

/-- Settles O40: each digest is a closed computation in the kernel's arithmetic. -/
theorem hashKnownAnswers : Obligations.HashKnownAnswers := by
  refine ⟨?_, sha256_nil, ?_, ?_, ?_⟩
  · decide +kernel
  · rw [sha256d, sha256_nil]
    decide +kernel
  · decide +kernel
  · decide +kernel

end Sys2Proof.Machine
end

section
/-! PROOFS. Numbers written in a base, most significant digit first, without a leading zero: the shortest form that
both `minBE` (00_scope.md R16) and the base-58 text of 45_base58.md R236 spell out; and a list with the run of one
value at its front split off (R234, R245 step 2). -/

namespace Sys2Proof.Machine

/-! ### The run at the front of a list -/

section Leading

variable {α : Type} [DecidableEq α] {a : α}

theorem exists_replicate_append (a : α) (l : List α) :
    ∃ z rest, l = List.replicate z a ++ rest ∧ rest.head? ≠ some a := by
  induction l with
  | nil => exact ⟨0, [], rfl, by simp⟩
  | cons x l ih =>
    by_cases hx : x = a
    · obtain ⟨z, rest, rfl, hrest⟩ := ih
      exact ⟨z + 1, rest, by rw [hx, List.replicate_succ, List.cons_append], hrest⟩
    · exact ⟨0, x :: l, rfl, by simpa using hx⟩

theorem takeWhile_eq_nil_of_head?_ne {rest : List α} (h : rest.head? ≠ some a) : rest.takeWhile (· == a) = [] := by
  cases rest with
  | nil => rfl
  | cons x rest => exact List.takeWhile_cons_of_neg (by simpa using h)

theorem length_takeWhile_replicate_append {rest : List α} (h : rest.head? ≠ some a) (z : Nat) :
    ((List.replicate z a ++ rest).takeWhile (· == a)).length = z := by
  rw [List.takeWhile_append_of_pos (by simp), takeWhile_eq_nil_of_head?_ne h, List.append_nil, List.length_replicate]

end Leading

/-! ### The shortest form in a base -/

/-- The digits of `N` in base `b`, most significant first, none for 0. -/
def digitsBE (b N : Nat) : List Nat := (Nat.digits b N).reverse

theorem head?_digitsBE_ne (b N : Nat) : (digitsBE b N).head? ≠ some 0 := by
  obtain rfl | hN := eq_or_ne N 0
  · simp [digitsBE]
  · rw [digitsBE, List.head?_reverse, List.getLast?_eq_some_getLast (Nat.digits_ne_nil_iff_ne_zero.2 hN)]
    exact fun h => Nat.getLast_digit_ne_zero b hN (Option.some.inj h)

theorem lt_of_mem_digitsBE {b N d : Nat} (hb : 1 < b) (h : d ∈ digitsBE b N) : d < b :=
  Nat.digits_lt_base hb (List.mem_reverse.1 h)

theorem ofDigits_digitsBE (b N : Nat) : Nat.ofDigits b (digitsBE b N).reverse = N := by
  rw [digitsBE, List.reverse_reverse, Nat.ofDigits_digits]

/-- A list of digits that does not start with 0 is the shortest form of its value. -/
theorem digitsBE_ofDigits {b : Nat} {ds : List Nat} (hb : 1 < b) (hlt : ∀ d ∈ ds, d < b) (hhead : ds.head? ≠ some 0) :
    digitsBE b (Nat.ofDigits b ds.reverse) = ds := by
  have hlast : ∀ h : ds.reverse ≠ [], ds.reverse.getLast h ≠ 0 := fun h hzero =>
    hhead (by rw [← List.getLast?_reverse, List.getLast?_eq_some_getLast h, hzero])
  rw [digitsBE, Nat.digits_ofDigits b hb _ (fun d hd => hlt d (List.mem_reverse.1 hd)) hlast, List.reverse_reverse]

theorem length_digitsBE_le {b N k : Nat} (hb : 1 < b) (h : N < b ^ k) : (digitsBE b N).length ≤ k := by
  rw [digitsBE, List.length_reverse]
  exact (Nat.digits_length_le_iff hb N).2 h

/-- Horner's rule, as `fromBE` and `fromDigits58` write it. -/
theorem foldl_eq_ofDigits (b : Nat) (ds : List Nat) :
    ds.foldl (fun acc d => b * acc + d) 0 = Nat.ofDigits b ds.reverse := by
  rw [Nat.ofDigits_eq_foldr, List.foldr_reverse]
  simp [Nat.add_comm]

/-! ### Byte strings as base-256 numbers -/

theorem fromBE_eq_ofDigits (s : Bytes) : fromBE s = Nat.ofDigits 256 (s.map BitVec.toNat).reverse := by
  rw [← foldl_eq_ofDigits, List.foldl_map, fromBE]

theorem length_minBE_eq (N : Nat) : (minBE N).length = (digitsBE 256 N).length := by
  refine eq_of_forall_ge_iff fun k => ?_
  have hpow : 256 ^ k = 2 ^ (8 * k) := (Nat.pow_mul 2 8 k).symm
  rw [minBE, length_be, digitsBE, List.length_reverse, Nat.digits_length_le_iff (by decide), hpow, ← bitlen_le_iff]
  omega

/-- `minBE` spells out the base-256 digits (R16). -/
theorem minBE_eq_map (N : Nat) : minBE N = (digitsBE 256 N).map (BitVec.ofNat 8) := by
  have hlen : (minBE N).length = (Nat.digits 256 N).length := by rw [length_minBE_eq, digitsBE, List.length_reverse]
  refine List.ext_getElem (by rw [length_minBE_eq, List.length_map]) fun i hi _ => ?_
  have hplace : (bitlen N + 7) / 8 - 1 - i = (Nat.digits 256 N).length - 1 - i := by rw [← hlen, minBE, length_be]
  have hdigit (j : Nat) (hj : j < (Nat.digits 256 N).length) : (Nat.digits 256 N)[j] = N / 256 ^ j % 256 := by
    rw [← Nat.getD_digits N j (by decide), List.getD_eq_getElem]
  simp only [minBE, getElem_be, hplace, digitsBE, List.getElem_map, List.getElem_reverse, hdigit]
  exact BitVec.eq_of_toNat_eq (by simp)

theorem map_toNat_minBE (N : Nat) : (minBE N).map BitVec.toNat = digitsBE 256 N := by
  rw [minBE_eq_map, List.map_map]
  refine (List.map_congr_left fun d hd => ?_).trans (List.map_id _)
  exact Nat.mod_eq_of_lt (lt_of_mem_digitsBE (by decide) hd)

theorem fromBE_minBE (N : Nat) : fromBE (minBE N) = N := by
  rw [fromBE_eq_ofDigits, map_toNat_minBE, ofDigits_digitsBE]

theorem head?_minBE_ne (N : Nat) : (minBE N).head? ≠ some 0 := by
  intro h
  refine head?_digitsBE_ne 256 N ?_
  rw [← map_toNat_minBE, List.head?_map, h]
  rfl

/-- A byte string that does not start with a zero byte is the shortest form of its value. -/
theorem minBE_fromBE {s : Bytes} (h : s.head? ≠ some 0) : minBE (fromBE s) = s := by
  have hlt : ∀ d ∈ s.map BitVec.toNat, d < 256 := by
    simp only [List.mem_map]
    rintro _ ⟨b, -, rfl⟩
    exact b.isLt
  have hhead : (s.map BitVec.toNat).head? ≠ some 0 := by
    cases s with
    | nil => simp
    | cons b s => simpa [BitVec.toNat_eq] using h
  rw [minBE_eq_map, fromBE_eq_ofDigits, digitsBE_ofDigits (by decide) hlt hhead, List.map_map]
  refine List.map_id'' (fun b => ?_) s
  simp

end Sys2Proof.Machine
end

section
/-! PROOFS. Base-58 digits and characters (45_base58.md R231, R236, R245 step 1). -/

namespace Sys2Proof.Machine

/-! ### The alphabet -/

/-- The ranges of `val58` find a character at its place in the alphabet (R231). -/
theorem getElem?_alphabet_of_val58 : ∀ c : Byte, ∀ d ∈ val58 c, alphabet[d]? = some c := by decide

theorem val58_getElem_alphabet : ∀ d : Fin alphabet.length, val58 alphabet[d] = some d.val := by decide

theorem val58_eq_some_iff (c : Byte) (d : Nat) : val58 c = some d ↔ alphabet[d]? = some c := by
  refine ⟨fun h => getElem?_alphabet_of_val58 c d h, fun h => ?_⟩
  obtain ⟨hd, rfl⟩ := List.getElem?_eq_some_iff.1 h
  exact val58_getElem_alphabet ⟨d, hd⟩

theorem val58_eq_none_iff (c : Byte) : val58 c = none ↔ c ∉ alphabet := by
  simp only [Option.eq_none_iff_forall_ne_some, ne_eq, val58_eq_some_iff, List.mem_iff_getElem?, not_exists]

theorem getElem?_alphabet {d : Nat} (hd : d < 58) : alphabet[d]? = some (chr58 d) := by
  rw [chr58, List.getD_eq_getElem _ _ hd]
  exact List.getElem?_eq_getElem hd

theorem val58_chr58 {d : Nat} (hd : d < 58) : val58 (chr58 d) = some d :=
  (val58_eq_some_iff _ _).2 (getElem?_alphabet hd)

theorem chr58_of_val58 {c : Byte} {d : Nat} (h : val58 c = some d) : chr58 d = c :=
  Option.some.inj ((getElem?_alphabet (val58_lt h)).symm.trans ((val58_eq_some_iff c d).1 h))

/-! ### Texts and their digits -/

/-- Step 1 of R245 reads exactly the texts that spell out digits. -/
theorem digitsOfText_eq_some_iff {text : Bytes} {ds : List Nat} :
    digitsOfText text = some ds ↔ (∀ d ∈ ds, d < 58) ∧ ds.map chr58 = text := by
  induction text generalizing ds with
  | nil => cases ds <;> simp [digitsOfText]
  | cons c text ih =>
    rw [digitsOfText_cons_eq_some]
    constructor
    · rintro ⟨d, ds', hc, hs, rfl⟩
      obtain ⟨hlt, rfl⟩ := ih.1 hs
      exact ⟨List.forall_mem_cons.2 ⟨val58_lt hc, hlt⟩, by rw [List.map_cons, chr58_of_val58 hc]⟩
    · rintro ⟨hlt, hmap⟩
      obtain ⟨d, ds', rfl, rfl, rfl⟩ := List.map_eq_cons_iff.1 hmap
      obtain ⟨hd, hds⟩ := List.forall_mem_cons.1 hlt
      exact ⟨d, ds', val58_chr58 hd, ih.2 ⟨hds, rfl⟩, rfl⟩

theorem digitsOfText_eq_none_iff (text : Bytes) : digitsOfText text = none ↔ ∃ c ∈ text, c ∉ alphabet := by
  induction text with
  | nil => simp [digitsOfText]
  | cons c text ih =>
    rw [List.exists_mem_cons_iff, ← ih, ← val58_eq_none_iff]
    cases hc : val58 c <;> cases ht : digitsOfText text <;> simp [digitsOfText, hc, ht]

/-- The fuel of `digits58` is enough for every number of that many bits. -/
theorem digits58_eq_digits {fuel N : Nat} (h : N < 2 ^ fuel) : digits58 fuel N = Nat.digits 58 N := by
  induction fuel generalizing N with
  | zero => simp [digits58, Nat.lt_one_iff.1 h]
  | succ fuel ih =>
    rw [digits58]
    split
    next hN => rw [hN, Nat.digits_zero]
    next hN => rw [ih (by omega), ← Nat.digits_def' (by decide) (Nat.pos_of_ne_zero hN)]

theorem text58_eq_map (N : Nat) : text58 N = (digitsBE 58 N).map chr58 := by
  rw [text58, digits58_eq_digits ((bitlen_le_iff N _).1 le_rfl), digitsBE, List.map_reverse]

theorem fromDigits58_eq_ofDigits (ds : List Nat) : fromDigits58 ds = Nat.ofDigits 58 ds.reverse :=
  foldl_eq_ofDigits 58 ds

end Sys2Proof.Machine
end

section
/-! PROOFS. The codec: what `encode` writes, how long it is, and that `decode` is its exact inverse (45_base58.md R233,
R245 to R248). -/

namespace Sys2Proof.Machine

/-! ### Byte strings and their base-58 text -/

/-- The text of a byte string: steps 4 to 6 of R233, without the checksum. -/
def textOfBytes (full : Bytes) : Bytes :=
  List.replicate (leadingCount 0 full) zeroChar ++ text58 (fromBE (full.drop (leadingCount 0 full)))

theorem b58Encode_eq (ver : Byte) (payload : Bytes) :
    b58Encode ver payload = textOfBytes (withChecksum ver payload) := rfl

theorem exists_zeros_append (full : Bytes) : ∃ z rest, full = zeros z ++ rest ∧ rest.head? ≠ some 0 :=
  exists_replicate_append 0 full

theorem textOfBytes_zeros_append {rest : Bytes} (h : rest.head? ≠ some 0) (z : Nat) :
    textOfBytes (zeros z ++ rest) = List.replicate z zeroChar ++ text58 (fromBE rest) := by
  have hz : leadingCount 0 (zeros z ++ rest) = z := length_takeWhile_replicate_append h z
  rw [textOfBytes, hz, List.drop_left' (length_zeros z)]

theorem bytesOfDigits_replicate_append {ds : List Nat} (h : ds.head? ≠ some 0) (z : Nat) :
    bytesOfDigits (List.replicate z 0 ++ ds) = zeros z ++ minBE (fromDigits58 ds) := by
  have hz : ((List.replicate z 0 ++ ds).takeWhile (· == 0)).length = z := length_takeWhile_replicate_append h z
  rw [bytesOfDigits, hz, List.drop_left' List.length_replicate]

/-- The digits that `textOfBytes` spells out are read back as the same bytes (R247). -/
theorem exists_digits_textOfBytes (full : Bytes) :
    ∃ ds, digitsOfText (textOfBytes full) = some ds ∧ bytesOfDigits ds = full := by
  obtain ⟨z, rest, rfl, hrest⟩ := exists_zeros_append full
  refine ⟨List.replicate z 0 ++ digitsBE 58 (fromBE rest), digitsOfText_eq_some_iff.2 ⟨fun d hd => ?_, ?_⟩, ?_⟩
  · obtain hd | hd := List.mem_append.1 hd
    · rw [List.eq_of_mem_replicate hd]
      decide
    · exact lt_of_mem_digitsBE (by decide) hd
  · rw [textOfBytes_zeros_append hrest, text58_eq_map, List.map_append, List.map_replicate]
    rfl
  · rw [bytesOfDigits_replicate_append (head?_digitsBE_ne 58 _), fromDigits58_eq_ofDigits, ofDigits_digitsBE,
      minBE_fromBE hrest]

/-- The bytes read from digits have those digits as their text. -/
theorem textOfBytes_bytesOfDigits {ds : List Nat} (hlt : ∀ d ∈ ds, d < 58) :
    textOfBytes (bytesOfDigits ds) = ds.map chr58 := by
  obtain ⟨z, rest, rfl, hrest⟩ := exists_replicate_append 0 ds
  have hlt' : ∀ d ∈ rest, d < 58 := fun d hd => hlt d (List.mem_append_right _ hd)
  rw [bytesOfDigits_replicate_append hrest, textOfBytes_zeros_append (head?_minBE_ne _), fromBE_minBE, text58_eq_map,
    fromDigits58_eq_ofDigits, digitsBE_ofDigits (by decide) hlt' hrest, List.map_append, List.map_replicate]
  rfl

/-- A text stands for exactly one byte string, and a byte string for exactly one text (R247). -/
theorem textOfBytes_eq_iff (full text : Bytes) :
    textOfBytes full = text ↔ ∃ ds, digitsOfText text = some ds ∧ bytesOfDigits ds = full := by
  constructor
  · rintro rfl
    exact exists_digits_textOfBytes full
  · rintro ⟨ds, hds, rfl⟩
    obtain ⟨hlt, rfl⟩ := digitsOfText_eq_some_iff.1 hds
    exact textOfBytes_bytesOfDigits hlt

/-! ### The checksum -/

theorem length_checksum (v : Bytes) : (checksum v).length = 4 := by
  rw [checksum, List.length_take, sha256d, length_sha256]
  rfl

/-- Steps 5 to 7 of R245 accept exactly the byte strings that end in their checksum. -/
theorem eq_withChecksum_iff (full : Bytes) (ver : Byte) (payload : Bytes) :
    full = withChecksum ver payload ↔
      5 ≤ full.length ∧ checksum (full.take (full.length - 4)) = full.drop (full.length - 4) ∧
        full.take (full.length - 4) = ver :: payload := by
  constructor
  · rintro rfl
    have hlen : (withChecksum ver payload).length = payload.length + 5 := by
      simp [withChecksum, length_checksum]
    have hver : (withChecksum ver payload).length - 4 = (ver :: payload).length := by
      rw [hlen, List.length_cons]
      omega
    rw [hver, withChecksum, List.take_left' rfl, List.drop_left' rfl]
    exact ⟨by simp [length_checksum], rfl, rfl⟩
  · rintro ⟨-, hchk, htake⟩
    rw [withChecksum, ← htake, hchk, List.take_append_drop]

/-- Steps 5 to 7 of R245: the version byte and the payload of bytes that end in their checksum. -/
def openChecksum (full : Bytes) : Except CmdError (Byte × Bytes) :=
  if full.length < 5 then .error .invalidChecksum
  else if checksum (full.take (full.length - 4)) ≠ full.drop (full.length - 4) then .error .invalidChecksum
  else .ok ((full.take (full.length - 4)).headD 0, (full.take (full.length - 4)).tail)

theorem openChecksum_eq_ok_iff (full : Bytes) (ver : Byte) (payload : Bytes) :
    openChecksum full = .ok (ver, payload) ↔ full = withChecksum ver payload := by
  rw [eq_withChecksum_iff, openChecksum]
  split_ifs with hshort hchk
  · simp [Nat.not_le.2 hshort]
  · simp [hchk]
  · have hne : full.take (full.length - 4) ≠ [] := List.ne_nil_of_length_pos (by rw [List.length_take]; omega)
    obtain ⟨v, str, hcons⟩ := List.exists_cons_of_ne_nil hne
    rw [not_not, hcons] at hchk
    simp [hcons, hchk, Nat.not_lt.1 hshort]

theorem openChecksum_error {full : Bytes} {e : CmdError} (h : openChecksum full = .error e) : e = .invalidChecksum := by
  unfold openChecksum at h
  split_ifs at h
  · exact (Except.error.inj h).symm
  · exact (Except.error.inj h).symm

/-! ### Decoding -/

theorem b58Decode_of_none {text : Bytes} (h : digitsOfText text = none) :
    b58Decode text = .error .invalidCharacter := by
  rw [b58Decode, h]

theorem b58Decode_of_some {text : Bytes} {ds : List Nat} (h : digitsOfText text = some ds) :
    b58Decode text = openChecksum (bytesOfDigits ds) := by
  rw [b58Decode, h]
  rfl

theorem b58Decode_eq_ok_iff (text : Bytes) (ver : Byte) (payload : Bytes) :
    b58Decode text = .ok (ver, payload) ↔ b58Encode ver payload = text := by
  rw [b58Encode_eq, textOfBytes_eq_iff]
  cases h : digitsOfText text with
  | none => simp [b58Decode_of_none h]
  | some ds => simp [b58Decode_of_some h, openChecksum_eq_ok_iff]

theorem b58Decode_eq_invalidCharacter_iff (text : Bytes) :
    b58Decode text = .error .invalidCharacter ↔ digitsOfText text = none := by
  refine ⟨fun h => ?_, b58Decode_of_none⟩
  cases hds : digitsOfText text with
  | none => rfl
  | some ds => cases openChecksum_error ((b58Decode_of_some hds).symm.trans h)

theorem b58Decode_error {text : Bytes} {e : CmdError} (h : b58Decode text = .error e) :
    e = .invalidCharacter ∨ e = .invalidChecksum := by
  cases hds : digitsOfText text with
  | none => exact .inl (Except.error.inj (h.symm.trans (b58Decode_of_none hds)))
  | some ds => exact .inr (openChecksum_error ((b58Decode_of_some hds).symm.trans h))

/-! ### The two statements about the codec -/

/-- Settles O41: the digits are the shortest form of the value of what follows the leading zero bytes. -/
theorem encodeIsBase58 : Obligations.EncodeIsBase58 := by
  intro ver payload
  obtain ⟨z, rest, hsplit, hrest⟩ := exists_zeros_append (withChecksum ver payload)
  have hlt : ∀ d ∈ digitsBE 58 (fromBE rest), d < 58 := fun d hd => lt_of_mem_digitsBE (by decide) hd
  refine ⟨z, rest, digitsBE 58 (fromBE rest), hsplit, hrest, hlt, head?_digitsBE_ne 58 _, ?_, ?_⟩
  · rw [ofDigits_digitsBE, fromBE_eq_ofDigits]
  · rw [b58Encode_eq, hsplit, textOfBytes_zeros_append hrest, text58_eq_map]
    refine congrArg _ (List.map_congr_left fun d hd => ?_)
    rw [List.getD_eq_getElem?_getD, getElem?_alphabet (hlt d hd), Option.getD_some]

/-- Settles O42: by the one text of every byte string, and the checksum that `decode` takes off. -/
theorem decodeIsExactInverse : Obligations.DecodeIsExactInverse :=
  ⟨b58Decode_eq_ok_iff, fun text => (b58Decode_eq_invalidCharacter_iff text).trans (digitsOfText_eq_none_iff text),
    fun _ _ => b58Decode_error, val58_eq_some_iff⟩

/-! ### The length of a text -/

/-- Any number of zero bytes in front may be counted as one character each; the rest needs as many characters as its
bytes can need. -/
theorem length_textOfBytes_le {rest : Bytes} {m : Nat} (z : Nat) (h : 256 ^ rest.length ≤ 58 ^ m) :
    (textOfBytes (zeros z ++ rest)).length ≤ z + m := by
  obtain ⟨j, rest, rfl, hrest⟩ := exists_zeros_append rest
  rw [List.length_append, length_zeros] at h
  have hjm : j ≤ m := by
    refine (Nat.pow_le_pow_iff_right (by decide : 1 < 58)).1 ?_
    calc 58 ^ j ≤ 256 ^ j := Nat.pow_le_pow_left (by decide) j
      _ ≤ 256 ^ (j + rest.length) := Nat.pow_le_pow_right (by decide) (Nat.le_add_right _ _)
      _ ≤ 58 ^ m := h
  have hvalue : fromBE rest < 58 ^ (m - j) := by
    refine Nat.lt_of_mul_lt_mul_left (a := 58 ^ j) ?_
    calc 58 ^ j * fromBE rest < 58 ^ j * 256 ^ rest.length :=
          Nat.mul_lt_mul_of_pos_left (fromBE_lt rest) (by positivity)
      _ ≤ 256 ^ j * 256 ^ rest.length := Nat.mul_le_mul_right _ (Nat.pow_le_pow_left (by decide) j)
      _ ≤ 58 ^ m := by rwa [← Nat.pow_add]
      _ = 58 ^ j * 58 ^ (m - j) := by rw [← Nat.pow_add, Nat.add_sub_cancel' hjm]
  have hsplit : zeros z ++ (zeros j ++ rest) = zeros (z + j) ++ rest := by
    rw [← List.append_assoc, zeros, zeros, zeros, List.replicate_append_replicate]
  have hdigits : (digitsBE 58 (fromBE rest)).length ≤ m - j := length_digitsBE_le (by decide) hvalue
  rw [hsplit, textOfBytes_zeros_append hrest, text58_eq_map, List.length_append, List.length_replicate, List.length_map]
  omega

theorem length_b58Encode_le {payload : Bytes} (ver : Byte) (h : payload.length ≤ 88) :
    (b58Encode ver payload).length ≤ 128 := by
  have hlen : (withChecksum ver payload).length ≤ 93 := by
    simp only [withChecksum, List.length_append, List.length_cons, length_checksum]
    omega
  have hpow : 256 ^ (withChecksum ver payload).length ≤ 58 ^ 128 :=
    (Nat.pow_le_pow_right (by decide) hlen).trans (by decide)
  have hlength := length_textOfBytes_le 0 hpow
  rwa [zeros, List.replicate_zero, List.nil_append, Nat.zero_add] at hlength

theorem length_b58Encode_zeros_le {k : Nat} (h : k ≤ 121) : (b58Encode 0x00 (zeros k)).length ≤ 128 := by
  have hpow : 256 ^ (checksum (zeros (k + 1))).length ≤ 58 ^ 6 := by
    rw [length_checksum]
    decide
  have hfull : withChecksum 0x00 (zeros k) = zeros (k + 1) ++ checksum (zeros (k + 1)) := by
    rw [withChecksum, zeros, zeros, List.replicate_succ]
  rw [b58Encode_eq, hfull]
  exact (length_textOfBytes_le (k + 1) hpow).trans (by omega)

end Sys2Proof.Machine
end

section
/-! PROOFS. The commands B58ENC and B58DEC (45_base58.md R240, R250). -/

namespace Sys2Proof.Machine

section Encode

variable {bd bs1 : Index} {ver : Byte} {s : State}

theorem exec_b58enc_of_long (h : 128 < (b58Encode ver (s.contents bs1)).length) :
    exec (.b58enc bd bs1 ver) s = s.conclude (.error .length) := by
  rw [exec, execB58enc, fitBuffer, if_pos h]
  rfl

theorem exec_b58enc_of_fits (h : (b58Encode ver (s.contents bs1)).length ≤ 128) :
    exec (.b58enc bd bs1 ver) s = s.conclude (.ok (s.writeString bd.toNat (b58Encode ver (s.contents bs1)))) := by
  rw [exec, execB58enc, fitBuffer, if_neg (Nat.not_lt.2 h)]
  rfl

end Encode

/-- Settles O43: the command by its two outcomes, the lengths by the bound on texts; the two texts of 129 characters
are closed computations. -/
theorem b58encResult : Obligations.B58encResult :=
  ⟨fun _ _ _ s hwf => ⟨toNat_encode _, fun hlong => ⟨_, exec_b58enc_of_long hlong, s.raised_raise .length⟩,
      fun hfits => exists_onlyBuf_of_exec_eq hwf rfl (exec_b58enc_of_fits hfits)⟩,
    fun ver _ => length_b58Encode_le ver, by decide +kernel, fun _ => length_b58Encode_zeros_le, by decide +kernel⟩

section Decode

variable {bd bs1 : Index} {s : State}

theorem exec_b58dec_of_ok {ver : Byte} {payload : Bytes} (h : b58Decode (s.contents bs1) = .ok (ver, payload)) :
    exec (.b58dec bd bs1) s = .next ((s.setVer ver).writeString bd.toNat payload).finish := by
  rw [exec, execB58dec, h]
  rfl

theorem exists_raised_of_b58Decode_error {e : CmdError} (h : b58Decode (s.contents bs1) = .error e) :
    ∃ t, exec (.b58dec bd bs1) s = .next t ∧ Raised s t e.number := by
  rw [exec, execB58dec, h]
  exact ⟨_, rfl, s.raised_raise e⟩

end Decode

/-- Settles O44: the frame is that of a buffer write on the state with VER already set, which is outside that frame;
the payload is no longer than the text that stands for it. -/
theorem b58decResult : Obligations.B58decResult := by
  intro bd bs1 s hwf
  refine ⟨toNat_encode _, fun ver payload hdec => ?_, exists_raised_of_b58Decode_error,
    exists_raised_of_b58Decode_error⟩
  obtain ⟨hcompleted, hregs, hpoints, hbufs, hhost, honc, hver⟩ :=
    (s.setVer ver).onlyBuf_finish_writeString bd.toNat payload
  have hlen : payload.length ≤ (s.buf bs1.toNat).len := (length_payload_le hdec).trans_eq (Buffer.length_bytes _)
  exact ⟨_, exec_b58dec_of_ok hdec, hcompleted, hver,
    (s.setVer ver).bufHolds_writeString (lt_nBuf_of_writesBuf hwf rfl) payload, hlen, hregs, hpoints, hbufs, hhost,
    honc⟩

end Sys2Proof.Machine
end

section
/-! PROOFS. The conversions between numbers and byte strings of a given length, and the value of a byte string as a sum
(00_scope.md R16). -/

namespace Sys2Proof.Machine

/-- The last byte of `be` is the number's lowest digit. -/
theorem be_succ (v k : Nat) : be v (k + 1) = be (v / 256) k ++ [BitVec.ofNat 8 v] := by
  rw [be, List.range_succ, List.map_append, List.map_singleton]
  congr 1
  · refine List.map_congr_left fun i hi => ?_
    have hi : i < k := List.mem_range.1 hi
    have hexp : k + 1 - 1 - i = k - 1 - i + 1 := by omega
    rw [hexp, Nat.pow_succ', Nat.div_div_eq_div_mul]
  · simp

/-- `fromBE` undoes `be` up to the digits that do not fit. -/
theorem fromBE_be_eq_mod (v k : Nat) : fromBE (be v k) = v % 256 ^ k := by
  induction k generalizing v with
  | zero => simp [be, fromBE, Nat.mod_one]
  | succ k ih =>
    rw [be_succ, fromBE_append_singleton, ih, Nat.pow_succ', Nat.mod_mul, BitVec.toNat_ofNat]
    exact Nat.add_comm _ _

theorem fromBE_be {v k : Nat} (h : v < 256 ^ k) : fromBE (be v k) = v := by
  rw [fromBE_be_eq_mod, Nat.mod_eq_of_lt h]

theorem be_fromBE (str : Bytes) : be (fromBE str) str.length = str := by
  induction str using List.reverseRecOn with
  | nil => rfl
  | append_singleton str b ih =>
    have hb : b.toNat < 256 := b.isLt
    have hinit : (256 * fromBE str + b.toNat) / 256 = fromBE str := by omega
    have hlast : BitVec.ofNat 8 (256 * fromBE str + b.toNat) = b := by
      apply BitVec.eq_of_toNat_eq
      rw [BitVec.toNat_ofNat]
      omega
    rw [List.length_append, List.length_singleton, be_succ, fromBE_append_singleton, hinit, hlast, ih]

/-- The value of the bytes `f 0`, ..., `f (L - 1)`, each with its weight. -/
theorem fromBE_map_range (f : Nat → Byte) (L : Nat) :
    fromBE ((List.range L).map f) = ((List.range L).map fun i => (f i).toNat * 256 ^ (L - 1 - i)).sum := by
  induction L with
  | zero => rfl
  | succ L ih =>
    have hweights : ((List.range L).map fun i => (f i).toNat * 256 ^ (L + 1 - 1 - i)) =
        (List.range L).map fun i => 256 * ((f i).toNat * 256 ^ (L - 1 - i)) := by
      refine List.map_congr_left fun i hi => ?_
      have hi : i < L := List.mem_range.1 hi
      have hexp : L + 1 - 1 - i = L - 1 - i + 1 := by omega
      rw [hexp, Nat.pow_succ', Nat.mul_left_comm]
    simp only [List.range_succ, List.map_append, List.map_singleton, List.sum_append, List.sum_singleton]
    rw [fromBE_append_singleton, ih, hweights, List.sum_map_mul_left]
    simp

/-- Byte `j` of a 256-bit quantity written most significant byte first, as a slice of it. -/
theorem getD_be_32 (v : Word256) {j : Nat} (hj : j < 32) :
    (be v.toNat 32).getD j 0 = v.extractLsb' (8 * (31 - j)) 8 := by
  rw [List.getD_eq_getElem _ _ ((length_be _ _).symm ▸ hj), getElem_be]
  apply BitVec.eq_of_toNat_eq
  rw [BitVec.extractLsb'_toNat, BitVec.toNat_ofNat, Nat.shiftRight_eq_div_pow, Nat.pow_mul]

end Sys2Proof.Machine
end

section
/-! PROOFS. The commands R2B, B2R and BAPP (46_move.md R260, R261, R262). -/

namespace Sys2Proof.Machine

/-! ### R2B -/

/-- Settles O45: the 32 bytes are the string written, and a string reads as 0 beyond its end. -/
theorem r2bResult : Obligations.R2bResult := by
  intro bd rs s hwf
  obtain ⟨t, hexec, honly, ⟨-, hbytes⟩, hlen⟩ := exists_onlyBuf_len_of_exec_eq hwf rfl (length_be _ _) rfl
  refine ⟨toNat_encode _, t, hexec, honly, hlen, fun j hj => ?_, fun j hj => ?_⟩
  · rw [hbytes]
    exact getD_be_32 _ hj
  · rw [hbytes]
    exact List.getD_eq_default _ _ ((length_be _ _).trans_le hj)

/-! ### B2R -/

theorem State.contents_eq_map_readByte (s : State) (k : Index) :
    s.contents k = (List.range (s.buf k.toNat).len).map (s.readByte k.toNat) := by
  simp only [State.contents, Buffer.bytes, Memory.readBytes, Nat.zero_add]
  rfl

section ToRegister

variable {rd bs1 : Index} {s : State}

theorem exec_b2r_of_long (h : 32 < (s.buf bs1.toNat).len) : exec (.b2r rd bs1) s = s.conclude (.error .length) := by
  rw [exec, execB2r, if_pos h]

theorem exec_b2r_of_fits (h : (s.buf bs1.toNat).len ≤ 32) :
    exec (.b2r rd bs1) s = s.conclude (.ok (s.writeReg rd.toNat (fromBE (s.contents bs1)))) := by
  rw [exec, execB2r, if_neg (Nat.not_lt.2 h)]

/-- Contents that B2R accepts fit in a register. -/
theorem fromBE_contents_lt (h : (s.buf bs1.toNat).len ≤ 32) : fromBE (s.contents bs1) < 2 ^ 256 :=
  calc fromBE (s.contents bs1) < 256 ^ (s.contents bs1).length := fromBE_lt _
    _ = 256 ^ (s.buf bs1.toNat).len := by rw [State.contents, Buffer.length_bytes]
    _ ≤ 256 ^ 32 := Nat.pow_le_pow_right (by decide) h
    _ = 2 ^ 256 := by decide

/-- B2R of a 256-bit quantity's 32 bytes writes that quantity. -/
theorem exists_reg_eq_of_contents_eq_be {v : Word256} (hrd : rd.toNat < Config.nReg)
    (h : s.contents bs1 = be v.toNat 32) : ∃ t, exec (.b2r rd bs1) s = .next t ∧ t.reg rd.toNat = v := by
  have hlen : (s.buf bs1.toNat).len = 32 := by
    rw [← Buffer.length_bytes, ← State.contents, h, length_be]
  refine ⟨_, exec_b2r_of_fits hlen.le, BitVec.eq_of_toNat_eq ?_⟩
  rw [h, fromBE_be v.isLt]
  exact s.toNat_reg_writeReg hrd v.isLt

end ToRegister

/-- Settles O46: the command by its two outcomes, the value of the contents as the sum of its bytes. -/
theorem b2rResult : Obligations.B2rResult := by
  rintro rd bs1 s _ hwf rfl
  refine ⟨toNat_encode _, fun hlong => ⟨_, exec_b2r_of_long hlong, s.raised_raise .length⟩, fun hfits => ?_⟩
  rw [← fromBE_map_range, ← s.contents_eq_map_readByte]
  exact exists_onlyReg_of_exec_eq hwf rfl (fromBE_contents_lt hfits) (exec_b2r_of_fits hfits)

/-! ### Both ways -/

/-- Settles O48: B2R finds the 32 bytes that R2B wrote, whose value is the register's. -/
theorem registerBufferRoundTrip : Obligations.RegisterBufferRoundTrip := by
  refine ⟨fun bd rs rd s hr2b hb2r => ?_, fun v k => fromBE_be, be_fromBE,
    fun v => ⟨fromBE_minBE v, head?_minBE_ne v⟩⟩
  have hbd : bd.toNat < Config.nBuf := lt_nBuf_of_writesBuf hr2b rfl
  have hcontents : (s.writeString bd.toNat (be (s.scalar rs) 32)).finish.contents bd = be (s.scalar rs) 32 :=
    s.contents_writeString hbd _
  obtain ⟨u, hexec, hreg⟩ := exists_reg_eq_of_contents_eq_be (lt_nReg_of_writesReg hb2r rfl) hcontents
  exact ⟨_, u, rfl, hexec, hreg⟩

/-! ### BAPP -/

section Append

variable {bd : Index} {imm : Byte} {s : State}

theorem exec_bapp_of_full (h : (s.buf bd.toNat).len = 128) : exec (.bapp bd imm) s = s.conclude (.error .length) := by
  rw [exec, execBapp, if_pos h]

theorem exec_bapp_of_not_full (h : (s.buf bd.toNat).len ≠ 128) :
    exec (.bapp bd imm) s = s.conclude (.ok (s.setBuf bd.toNat ((s.buf bd.toNat).append imm))) := by
  rw [exec, execBapp, if_neg h]

end Append

/-- Completion with a buffer replaced: everything but that buffer is as before. -/
theorem State.onlyBuf_finish_setBuf (s : State) (k : Nat) (b : Buffer) : OnlyBuf s (s.setBuf k b).finish k := by
  obtain ⟨hbufs, hregs, hpoints, hcontrol, -⟩ := s.setBuf_frame k b
  exact ⟨⟨rfl, rfl, rfl⟩, hregs, hpoints, hbufs, hcontrol⟩

theorem Buffer.len_append (b : Buffer) (v : Byte) : (b.append v).len = b.len + 1 := rfl

/-- The canonical form of the space makes every byte read back as it was, but the new one (R43). -/
theorem Buffer.read_data_append {b : Buffer} (h : b.Ok) (v : Byte) (a : Nat) :
    (b.append v).data.read a = if a = b.len then v else b.data.read a := by
  obtain ⟨-, hsorted, -⟩ := h
  exact Memory.read_write _ hsorted _ _ _

/-- Settles O47: the command by its two outcomes, the second by what the appended buffer reads as. -/
theorem bappResult : Obligations.BappResult := by
  rintro bd imm s _ hwf hok rfl
  refine ⟨toNat_encode _, fun hfull => ⟨_, exec_bapp_of_full hfull, s.raised_raise .length⟩, fun hlt => ?_⟩
  have hbuf : (s.setBuf bd.toNat ((s.buf bd.toNat).append imm)).finish.buf bd.toNat = (s.buf bd.toNat).append imm :=
    s.buf_setBuf_self (lt_nBuf_of_writesBuf hwf rfl) _
  refine ⟨_, exec_bapp_of_not_full hlt.ne, s.onlyBuf_finish_setBuf _ _, ?_, fun a => ?_⟩
  · rw [hbuf, Buffer.len_append]
  · rw [State.readByte, hbuf, Buffer.read_data_append hok]
    rfl

end Sys2Proof.Machine
end

section
/-! PROOFS. The engine's turn (70_reset_and_hazards.md R345, R346; 60_exceptions.md R306), the issue of a command
(R344), and how a command that fails ends (60_exceptions.md R310). -/

namespace Sys2Proof.Machine

/-! ### Issue -/

theorem mapsTo_cmd : MapsTo 0x004 .cmd := ⟨by decide, rfl, rfl⟩

/-- Settles O49: CMD is a location of the register map, its write while BUSY = 0 the issue. -/
theorem issueOfACommand : Obligations.IssueOfACommand := fun _ w =>
  ⟨fun hidle => mapsTo_cmd.eventWrite_of_idle hidle w, fun hbusy => mapsTo_cmd.writeRefused hbusy (by decide) w,
    mapsTo_cmd.readServed fun _ => rfl⟩

/-! ### The engine's turn and the step -/

section Turn

variable {s t : State}

theorem State.engineTurn_of_busy (h : s.busy = true) : s.engineTurn = s.complete := if_pos h

theorem State.complete_of_decode_ok {i : Instr} (h : decode s.cmdlatch = .ok i) : s.complete = exec i s := by
  rw [State.complete, h]

theorem State.complete_of_decode_error {e : Illegal} (h : decode s.cmdlatch = .error e) :
    s.complete = .next (s.raise .illegalCommand) := by
  rw [State.complete, h]

theorem step_of_inputs_nil (h : s.inputs = []) : step s = s.engineTurn := by
  rw [step, h]

theorem step_of_inputs_cons {e : Event} {es : List Event} (h : s.inputs = e :: es) :
    step s = State.event { s with inputs := es } e := by
  rw [step, h]

/-- Every command ends with BUSY = 0 (R345). -/
theorem busy_eq_false_of_exec {i : Instr} (h : exec i s = .next t) : t.busy = false := by
  obtain ⟨u, -, rfl⟩ | ⟨e, rfl⟩ := exec_cases h <;> rfl

/-- After the engine's turn the engine is idle, whatever it did. -/
theorem State.busy_engineTurn (h : s.engineTurn = .next t) : t.busy = false := by
  cases hbusy : s.busy with
  | false =>
    rw [State.engineTurn_of_idle hbusy] at h
    cases h
    exact hbusy
  | true =>
    rw [State.engineTurn_of_busy hbusy] at h
    obtain ⟨e, -, heq⟩ | ⟨i, -, heq⟩ := s.complete_eq
    · cases heq.symm.trans h
      rfl
    · exact busy_eq_false_of_exec (heq.symm.trans h)

end Turn

/-- Settles O5: by the head of the events; the engine's turn is `Complete` while BUSY = 1. -/
theorem stepRunsTheLatchedCommand : Obligations.StepRunsTheLatchedCommand := by
  refine ⟨fun s i hnone hbusy hdecode => ?_, fun s i es hhead hbusy hdecode => ?_,
    fun s e es hhead => step_of_inputs_cons hhead, fun s hnone hidle => ?_⟩
  · rw [step_of_inputs_nil hnone, State.engineTurn_of_busy hbusy, State.complete_of_decode_ok hdecode]
  · have hturn : State.engineTurn { s with inputs := es } = State.complete { s with inputs := es } :=
      State.engineTurn_of_busy hbusy
    rw [step_of_inputs_cons hhead, State.event, hturn]
    exact State.complete_of_decode_ok hdecode
  · rw [step_of_inputs_nil hnone, State.engineTurn_of_idle hidle]

/-! ### Commands that fail -/

/-- Settles O6: a word that no row matches is one that the decoder rejects. -/
theorem illegalWordEndsWithSix : Obligations.IllegalWordEndsWithSix := by
  intro s hillegal hbusy
  cases hdecode : decode s.cmdlatch with
  | ok i =>
    have hlegal := (exists_decode_iff_tableLegal s.cmdlatch).1 ⟨i, hdecode⟩
    simp [hillegal] at hlegal
  | error e =>
    rw [State.engineTurn_of_busy hbusy, State.complete_of_decode_error hdecode]
    exact ⟨_, rfl, s.raised_raise .illegalCommand⟩

/-- Settles O12: a command completes without error or raises one on the state it started from. -/
theorem failedCommandWritesNothing : Obligations.FailedCommandWritesNothing := by
  refine ⟨State.raised_raise, fun i s t hexec herr => ?_⟩
  obtain ⟨u, -, rfl⟩ | ⟨e, rfl⟩ := exec_cases hexec
  · simp at herr
  · exact ⟨e, s.raised_raise e⟩

end Sys2Proof.Machine
end

section
/-! PROOFS. Every event keeps the events that are still to come, so the machine reaches its resting state
(70_reset_and_hazards.md R346; 60_exceptions.md R335). -/

namespace Sys2Proof.Machine

/-! ### The events still to come -/

section Inputs

variable {s t : State}

theorem State.inputs_engineTurn (h : s.engineTurn = .next t) : t.inputs = s.inputs := by
  cases hbusy : s.busy with
  | false =>
    rw [State.engineTurn_of_idle hbusy] at h
    cases h
    rfl
  | true =>
    rw [State.engineTurn_of_busy hbusy] at h
    obtain ⟨e, -, heq⟩ | ⟨i, -, heq⟩ := s.complete_eq
    · cases heq.symm.trans h
      rfl
    · obtain ⟨-, -, -, -, -, -, -, hinputs, -⟩ :=
        commandsWriteOnlyWhatTheirRuleNames i s t (heq.symm.trans h)
      exact hinputs

theorem State.inputs_writeLocation (s : State) (v : Word32) (l : Location) :
    (s.writeLocation v l).inputs = s.inputs := by
  cases l with
  | status =>
    rw [State.writeLocation, State.writeStatus]
    split <;> rfl
  | blen k =>
    rw [State.writeLocation]
    split <;> rfl
  | _ => rfl

theorem State.inputs_hostWrite (s : State) (l : Location) (v : Word32) : (s.hostWrite l v).inputs = s.inputs := by
  obtain ⟨-, -, heq⟩ | ⟨-, -, heq⟩ | ⟨-, heq⟩ := s.hostWrite_cases l v
  · rw [heq]
  · rw [heq, State.setHaz_inputs]
  · rw [heq, s.inputs_writeLocation v l]

theorem State.inputs_hostRead (s : State) (l : Location) : (s.hostRead l).2.inputs = s.inputs := by
  obtain ⟨-, -, heq⟩ | ⟨-, heq⟩ := s.hostRead_cases l
  · rw [heq, State.setHaz_inputs]
  · rw [heq]

/-- No event adds or takes one of the events that come after it (log 1, log 10). -/
theorem State.inputs_event {e : Event} (h : s.event e = .next t) : t.inputs = s.inputs := by
  cases e with
  | write off v =>
    obtain ⟨-, rfl⟩ := mapsTo_of_atOffset_eq_next (show s.eventWrite off v = .next t from h)
    exact s.inputs_hostWrite _ v
  | read off =>
    obtain ⟨-, rfl⟩ := mapsTo_of_atOffset_eq_next (show s.eventRead off = .next t from h)
    exact s.inputs_hostRead _
  | otherWidth => cases h
  | engine => exact State.inputs_engineTurn h
  | reset =>
    cases h
    rfl

end Inputs

/-! ### Runs -/

theorem run_succ_of_step_eq_next {M : Host.Core} {s t : M.State} (h : M.step s = .next t) (m : Nat) :
    M.run (m + 1) s = M.run m t := by
  rw [Host.Core.run, h]

/-- With no event waiting, one step makes the engine idle. -/
theorem exists_run_one_of_inputs_nil {s : State} (h : s.inputs = []) :
    ∃ t : State, Sys2Proof.core.run 1 s = .next t ∧ t.inputs = [] ∧ t.busy = false := by
  obtain ⟨t, ht⟩ := s.exists_engineTurn_eq_next
  have hstep : step s = .next t := (step_of_inputs_nil h).trans ht
  exact ⟨t, run_succ_of_step_eq_next (M := Sys2Proof.core) hstep 0, (State.inputs_engineTurn ht).trans h,
    State.busy_engineTurn ht⟩

/-- Settles O11, by induction on the events that wait: each is taken in one step and adds none. -/
theorem everyCommandTerminates : Obligations.EveryCommandTerminates := by
  intro s hallowed
  induction hes : s.inputs generalizing s with
  | nil => exact exists_run_one_of_inputs_nil hes
  | cons e es ih =>
    obtain ⟨he, hrest⟩ := List.forall_mem_cons.1 (hes ▸ hallowed : ∀ e' ∈ e :: es, e'.allowed = true)
    obtain ⟨t, ht⟩ := (State.exists_event_eq_next_iff { s with inputs := es } e).2 he
    have hinputs : t.inputs = es := State.inputs_event ht
    obtain ⟨u, hrun, hu⟩ := ih t (fun e' he' => hrest e' (hinputs ▸ he')) hinputs
    exact ⟨u, (run_succ_of_step_eq_next (M := Sys2Proof.core) ((step_of_inputs_cons hes).trans ht) _).trans hrun, hu⟩

end Sys2Proof.Machine
end

section
/-! PROOFS. The busy window (70_reset_and_hazards.md R345; 20_memory.md R65, R76): what a host sees of a CORE, HAZ and
the words it has received, is nothing that a command reads, and is all that a host access can change meanwhile. -/

namespace Sys2Proof.Machine

/-! ### The host's view replaced -/

/-- The state with HAZ and the words the host has received replaced. -/
def State.withHostView (s : State) (haz : Bool) (responses : List Word32) : State :=
  { s with haz := haz, responses := responses }

/-- What the pseudocode of a command gives with the host's view replaced, `r'`, is what it gave before, `r`, with the
host's view replaced. -/
def AgreesBehindView (haz : Bool) (ws : List Word32) (r r' : Except CmdError State) : Prop :=
  r' = r.map fun u => u.withHostView haz ws

section Agreement

variable {s : State} {haz : Bool} {ws : List Word32}

theorem AgreesBehindView.ok (u : State) : AgreesBehindView haz ws (.ok u) (.ok (u.withHostView haz ws)) := rfl

theorem AgreesBehindView.error (e : CmdError) : AgreesBehindView haz ws (.error e) (.error e) := rfl

theorem AgreesBehindView.ite {c : Prop} [Decidable c] {r₁ r₁' r₂ r₂' : Except CmdError State}
    (h₁ : AgreesBehindView haz ws r₁ r₁') (h₂ : AgreesBehindView haz ws r₂ r₂') :
    AgreesBehindView haz ws (if c then r₁ else r₂) (if c then r₁' else r₂') := by
  split
  · exact h₁
  · exact h₂

theorem AgreesBehindView.map {α : Type} (r : Except CmdError α) (f : α → State) :
    AgreesBehindView haz ws (r.map f) (r.map fun a => (f a).withHostView haz ws) := by
  cases r <;> rfl

theorem AgreesBehindView.conclude {r r' : Except CmdError State} (h : AgreesBehindView haz ws r r') {u : State}
    (hu : s.conclude r = .next u) : (s.withHostView haz ws).conclude r' = .next (u.withHostView haz ws) := by
  cases h
  obtain ⟨v, rfl, rfl⟩ | ⟨e, rfl, rfl⟩ := (s.conclude_eq_next_iff _ _).1 hu <;> rfl

end Agreement

/-- No command reads or writes HAZ or the words the host has received. -/
theorem exists_exec_withHostView (i : Instr) (s : State) (haz : Bool) (ws : List Word32) :
    ∃ r r', exec i s = s.conclude r ∧ exec i (s.withHostView haz ws) = (s.withHostView haz ws).conclude r' ∧
      AgreesBehindView haz ws r r' := by
  cases i with
  | fadd | fsub | fmul | fneg | pdbl | padd | pchk | pmul | sha256 | rmd160 | hash160 | r2b =>
    exact ⟨_, _, rfl, rfl, .ok _⟩
  | pmulg | schk => exact ⟨_, _, rfl, rfl, .ite (.ok _) (.error _)⟩
  | finv | b2r | bapp => exact ⟨_, _, rfl, rfl, .ite (.error _) (.ok _)⟩
  | serc | seru | b58enc | b58dec => exact ⟨_, _, rfl, rfl, .map _ _⟩

theorem State.engineTurn_withHostView {s u : State} (hbusy : s.busy = true) (h : s.engineTurn = .next u)
    (haz : Bool) (ws : List Word32) :
    (s.withHostView haz ws).engineTurn = .next (u.withHostView haz ws) := by
  have hbusy' : (s.withHostView haz ws).busy = true := hbusy
  rw [State.engineTurn_of_busy hbusy] at h
  rw [State.engineTurn_of_busy hbusy']
  cases hdecode : decode s.cmdlatch with
  | error e =>
    have hdecode' : decode (s.withHostView haz ws).cmdlatch = .error e := hdecode
    rw [State.complete_of_decode_error hdecode] at h
    rw [State.complete_of_decode_error hdecode']
    cases h
    rfl
  | ok i =>
    have hdecode' : decode (s.withHostView haz ws).cmdlatch = .ok i := hdecode
    obtain ⟨r, r', hr, hr', hagree⟩ := exists_exec_withHostView i s haz ws
    rw [State.complete_of_decode_ok hdecode, hr] at h
    rw [State.complete_of_decode_ok hdecode', hr']
    exact hagree.conclude h

/-! ### Host accesses while BUSY = 1 -/

theorem State.hostWrite_of_busy {s : State} (hbusy : s.busy = true) (l : Location) (v : Word32) :
    ∃ haz, s.hostWrite l v = s.withHostView haz s.responses := by
  obtain ⟨-, -, heq⟩ | ⟨-, -, heq⟩ | ⟨hidle, -⟩ := s.hostWrite_cases l v
  · exact ⟨s.haz, heq⟩
  · exact ⟨true, heq⟩
  · simp [hbusy] at hidle

theorem State.hostRead_snd (s : State) (l : Location) : ∃ haz, (s.hostRead l).2 = s.withHostView haz s.responses := by
  obtain ⟨-, -, heq⟩ | ⟨-, heq⟩ := s.hostRead_cases l <;> rw [heq]
  · exact ⟨true, rfl⟩
  · exact ⟨s.haz, rfl⟩

theorem State.event_of_busy {s t : State} {e : Event} (hbusy : s.busy = true) (he : e.isHostAccess = true)
    (h : s.event e = .next t) : ∃ haz ws, t = s.withHostView haz ws := by
  cases e with
  | write off v =>
    obtain ⟨-, rfl⟩ := mapsTo_of_atOffset_eq_next (show s.eventWrite off v = .next t from h)
    obtain ⟨haz, heq⟩ := State.hostWrite_of_busy hbusy (locate off) v
    exact ⟨haz, _, heq⟩
  | read off =>
    obtain ⟨-, rfl⟩ := mapsTo_of_atOffset_eq_next (show s.eventRead off = .next t from h)
    obtain ⟨haz, heq⟩ := s.hostRead_snd (locate off)
    exact ⟨haz, _, by rw [heq]; rfl⟩
  | otherWidth | engine | reset => cases he

theorem State.events_of_busy {s t : State} {es : List Event} (hbusy : s.busy = true)
    (hes : ∀ e ∈ es, e.isHostAccess = true) (h : s.events es = .next t) : ∃ haz ws, t = s.withHostView haz ws := by
  induction es generalizing s with
  | nil =>
    cases h
    exact ⟨t.haz, t.responses, rfl⟩
  | cons e es ih =>
    obtain ⟨he, hrest⟩ := List.forall_mem_cons.1 hes
    obtain ⟨u, hu, htail⟩ := (andThen_eq_next_iff _ _ _).1 h
    obtain ⟨haz, ws, rfl⟩ := State.event_of_busy hbusy he hu
    obtain ⟨haz', ws', rfl⟩ := ih (s := s.withHostView haz ws) hbusy hrest htail
    exact ⟨haz', ws', rfl⟩

/-- Settles O15: the accesses replace the host's view, and the engine's turn takes it along. -/
theorem busyWindowIsAtomic : Obligations.BusyWindowIsAtomic := by
  intro s t es hbusy hes h
  obtain ⟨haz, ws, rfl⟩ := State.events_of_busy hbusy hes h
  obtain ⟨u, hu⟩ := s.exists_engineTurn_eq_next
  exact ⟨rfl, u, hu, State.engineTurn_withHostView hbusy hu haz ws⟩

end Sys2Proof.Machine
end

section
/-! PROOFS. Several instances (60_exceptions.md R330; 47_pipeline.md R279): an event of one is no event of any other. -/

namespace Sys2Proof.Machine

theorem eventsOf_cons_self (c : Nat) (e : Event) (es : List (Nat × Event)) :
    eventsOf c ((c, e) :: es) = e :: eventsOf c es := by
  simp [eventsOf]

theorem eventsOf_cons_ne {c d : Nat} (h : d ≠ c) (e : Event) (es : List (Nat × Event)) :
    eventsOf c ((d, e) :: es) = eventsOf c es := by
  simp [eventsOf, h]

/-- A sequence of events of a CORE that may have stopped already. -/
def instanceEvents (r : Result) (es : List Event) : Result := andThen r fun s => s.events es

theorem instanceEvents_nil (r : Result) : instanceEvents r [] = r := by
  cases r <;> rfl

theorem instanceEvents_cons (r : Result) (e : Event) (es : List Event) :
    instanceEvents r (e :: es) = instanceEvents (instanceEvent r e) es := by
  cases r <;> rfl

/-- Each CORE of a platform, from any states, sees its own events only. -/
theorem Platform.getElem?_run (P : Platform) (es : List (Nat × Event)) (c : Nat) :
    (P.run es)[c]? = P[c]?.map fun r => instanceEvents r (eventsOf c es) := by
  induction es generalizing P with
  | nil =>
    have hnil : (fun r => instanceEvents r (eventsOf c [])) = id := funext instanceEvents_nil
    rw [hnil, Option.map_id]
    rfl
  | cons ce es ih =>
    obtain ⟨d, e⟩ := ce
    have hrun : P.run ((d, e) :: es) = (P.event (d, e)).run es := rfl
    rw [hrun, ih, Platform.event, List.getElem?_modify, Option.map_eq_map, Option.map_map]
    congr 1
    funext r
    by_cases hdc : d = c
    · subst hdc
      simp only [Function.comp_apply, if_true, eventsOf_cons_self, instanceEvents_cons]
    · simp only [Function.comp_apply, if_neg hdc, eventsOf_cons_ne hdc]

/-- Settles O56: all instances start from the reset state. -/
theorem instancesAreIndependent : Obligations.InstancesAreIndependent := by
  intro nCores c es hc
  rw [Platform.getElem?_run, Platform.reset, List.getElem?_replicate, if_pos hc]
  rfl

end Sys2Proof.Machine
end

section
/-! PROOFS. The errors of each command (60_exceptions.md R313): which its pseudocode can raise, and for each a state in
which it does. -/

namespace Sys2Proof.Machine

/-! ### The errors a command can raise -/

/-- Every error that the pseudocode raises has its number in the list. -/
def RaisesOnly (codes : List Byte) (r : Except CmdError State) : Prop := ∀ e, r = .error e → e.number ∈ codes

section Raises

variable {codes : List Byte} {r : Except CmdError State}

theorem RaisesOnly.ok (u : State) : RaisesOnly codes (.ok u) := by
  rintro _ ⟨⟩

theorem RaisesOnly.error {e : CmdError} (h : e.number ∈ codes) : RaisesOnly codes (.error e) := by
  rintro _ ⟨⟩
  exact h

theorem RaisesOnly.ite {c : Prop} [Decidable c] {r' : Except CmdError State} (h : RaisesOnly codes r)
    (h' : RaisesOnly codes r') : RaisesOnly codes (if c then r else r') := by
  split
  · exact h
  · exact h'

theorem RaisesOnly.map {α : Type} {r : Except CmdError α} (f : α → State) (h : ∀ e, r = .error e → e.number ∈ codes) :
    RaisesOnly codes (r.map f) := by
  cases r with
  | error e => exact .error (h e rfl)
  | ok a => exact .ok (f a)

end Raises

theorem compress_error {P : Point} {e : CmdError} (h : compress P = .error e) : e = .pointAtInfinity := by
  cases P <;> cases h
  rfl

theorem uncompressed_error {P : Point} {e : CmdError} (h : uncompressed P = .error e) : e = .pointAtInfinity := by
  cases P <;> cases h
  rfl

theorem fitBuffer_error {text : Bytes} {e : CmdError} (h : fitBuffer text = .error e) : e = .length := by
  unfold fitBuffer at h
  split_ifs at h
  exact (Except.error.inj h).symm

/-- Every command is the completion of pseudocode that raises only errors of its row of R313. -/
theorem exists_exec_conclude_raisesOnly (i : Instr) (s : State) :
    ∃ r, exec i s = s.conclude r ∧ RaisesOnly (possibleErrors i) r := by
  cases i with
  | fadd | fsub | fmul | fneg | pdbl | padd | pchk | pmul | sha256 | rmd160 | hash160 | r2b =>
    exact ⟨_, rfl, .ok _⟩
  | pmulg | schk => exact ⟨_, rfl, .ite (.ok _) (.error (.head _))⟩
  | finv | b2r | bapp => exact ⟨_, rfl, .ite (.error (.head _)) (.ok _)⟩
  | serc => exact ⟨_, rfl, .map _ fun _ h => compress_error h ▸ .head _⟩
  | seru => exact ⟨_, rfl, .map _ fun _ h => uncompressed_error h ▸ .head _⟩
  | b58enc => exact ⟨_, rfl, .map _ fun _ h => fitBuffer_error h ▸ .head _⟩
  | b58dec =>
    refine ⟨_, rfl, .map _ fun _ h => ?_⟩
    obtain rfl | rfl := b58Decode_error h
    · exact .tail _ (.head _)
    · exact .head _

/-! ### A state in which each error occurs -/

/-- Just after the issue of a command word from reset, but that buffer `k` holds `len` zero bytes. -/
def issuedWithZeros (k len : Nat) : State := (State.reset.setBuf k ⟨len, []⟩).issue 0

section Occurs

variable {i : Instr} {k len : Nat}

theorem issuedWithZeros_inv (h : len ≤ 128) : (issuedWithZeros k len).Inv := by
  have hok : Buffer.Ok ⟨len, []⟩ := ⟨h, List.Pairwise.nil, by simp⟩
  exact (resetMeetsInvariant.allBufsOk.setBuf hok k).inv_issue 0

/-- Registers read as 0, those beyond the register file too (log 4). -/
theorem scalar_issuedWithZeros (rs : Index) : (issuedWithZeros k len).scalar rs = 0 := by
  have hreg : State.reset.reg rs.toNat = 0 := by
    by_cases h : rs.toNat < Config.nReg
    · exact State.reg_reset h
    · simp [State.reg, h]
  exact congrArg BitVec.toNat hreg

/-- Points read as Infinity, those beyond the register file too (log 4). -/
theorem pt_issuedWithZeros (ps : Index) : (issuedWithZeros k len).pt ps = .infinity := by
  have hpoint : State.reset.point ps.toNat = PointReg.canonicalInfinity := by
    by_cases h : ps.toNat < Config.nPt
    · exact State.point_reset h
    · simp [State.point, h]
  exact congrArg PointReg.value hpoint

theorem buf_issuedWithZeros (h : k < Config.nBuf) : (issuedWithZeros k len).buf k = ⟨len, []⟩ :=
  State.buf_setBuf_self _ h _

theorem contents_issuedWithZeros {b : Index} (h : b.toNat < Config.nBuf) :
    (issuedWithZeros b.toNat len).contents b = zeros len := by
  have hread (a : Nat) : Memory.read [] a = 0 := rfl
  simp [State.contents, buf_issuedWithZeros h, Buffer.bytes, Memory.readBytes, hread, zeros]

/-- The error number occurs as R313 says: the command ends with it from a busy state that meets the invariant. -/
def ErrorOccurs (i : Instr) (code : Byte) : Prop :=
  ∃ s t : State, s.Inv ∧ s.busy = true ∧ exec i s = .next t ∧ t.errcode = code

theorem ErrorOccurs.of_raised {code : Byte} (k len : Nat) (hlen : len ≤ 128)
    (h : ∃ t, exec i (issuedWithZeros k len) = .next t ∧ Raised (issuedWithZeros k len) t code) :
    ErrorOccurs i code := by
  obtain ⟨t, hexec, -, -, hcode, -⟩ := h
  exact ⟨_, t, issuedWithZeros_inv hlen, rfl, hexec, hcode⟩

theorem ErrorOccurs.of_conclude {e : CmdError} (k len : Nat) (hlen : len ≤ 128)
    (h : exec i (issuedWithZeros k len) = (issuedWithZeros k len).conclude (.error e)) : ErrorOccurs i e.number :=
  .of_raised k len hlen ⟨_, h, State.raised_raise _ e⟩

end Occurs

/-- A text has a character for every byte at least, so that 128 bytes and their checksum do not fit a buffer. -/
theorem length_le_length_textOfBytes (full : Bytes) : full.length ≤ (textOfBytes full).length := by
  obtain ⟨ds, htext, hbytes⟩ := exists_digits_textOfBytes full
  calc full.length = (bytesOfDigits ds).length := by rw [hbytes]
    _ ≤ ds.length := length_bytesOfDigits_le (digitsOfText_lt htext)
    _ = (textOfBytes full).length := length_digitsOfText htext

theorem length_lt_length_b58Encode (ver : Byte) (payload : Bytes) :
    payload.length < (b58Encode ver payload).length := by
  refine lt_of_lt_of_le ?_ (length_le_length_textOfBytes (withChecksum ver payload))
  simp only [withChecksum, List.length_append, List.length_cons]
  omega

theorem b58Decode_zeros {len : Nat} (h : 1 ≤ len) : b58Decode (zeros len) = .error .invalidCharacter := by
  rw [b58Decode_eq_invalidCharacter_iff, digitsOfText_eq_none_iff]
  exact ⟨0, List.mem_replicate.2 ⟨Nat.one_le_iff_ne_zero.1 h, rfl⟩, by decide⟩

/-- Registers of 0, points at Infinity and buffers of zero bytes make every command raise each of its errors. -/
theorem errorOccurs {i : Instr} (hwf : i.wellFormed = true) {code : Byte} (hcode : code ∈ possibleErrors i) :
    ErrorOccurs i code := by
  have hzero : ¬validScalar 0 = true := by decide
  cases i with
  | fadd | fsub | fmul | fneg | pdbl | padd | pchk | pmul | sha256 | rmd160 | hash160 | r2b => cases hcode
  | finv rd rs1 =>
    cases List.mem_singleton.1 hcode
    have hfe : (issuedWithZeros 0 0).fe rs1 = 0 := congrArg (· % Config.p) (scalar_issuedWithZeros rs1)
    exact .of_conclude 0 0 (by decide) (exec_finv_of_fe_eq_zero rd hfe)
  | pmulg pd rs =>
    cases List.mem_singleton.1 hcode
    exact .of_conclude 0 0 (by decide) (exec_pmulg_of_not_validScalar pd ((scalar_issuedWithZeros rs).symm ▸ hzero))
  | schk rs =>
    cases List.mem_singleton.1 hcode
    exact .of_conclude 0 0 (by decide) (exec_schk_of_not_validScalar ((scalar_issuedWithZeros rs).symm ▸ hzero))
  | serc bd ps1 =>
    cases List.mem_singleton.1 hcode
    refine .of_conclude (e := .pointAtInfinity) 0 0 (by decide) ?_
    rw [exec, execSerc, pt_issuedWithZeros]
    rfl
  | seru bd ps1 =>
    cases List.mem_singleton.1 hcode
    refine .of_conclude (e := .pointAtInfinity) 0 0 (by decide) ?_
    rw [exec, execSeru, pt_issuedWithZeros]
    rfl
  | b58enc bd bs1 ver =>
    cases List.mem_singleton.1 hcode
    have hlong := length_lt_length_b58Encode ver (zeros 128)
    have hbs : bs1.toNat < Config.nBuf := by simp_all [Instr.wellFormed, bufOk]
    rw [length_zeros, ← contents_issuedWithZeros hbs] at hlong
    exact .of_conclude _ 128 le_rfl (exec_b58enc_of_long hlong)
  | b58dec bd bs1 =>
    have hbs : bs1.toNat < Config.nBuf := by simp_all [Instr.wellFormed, bufOk]
    obtain rfl | hcode := List.mem_cons.1 hcode
    · have hempty : b58Decode (zeros 0) = .error .invalidChecksum := rfl
      rw [← contents_issuedWithZeros hbs] at hempty
      exact .of_raised _ 0 (by decide) (exists_raised_of_b58Decode_error hempty)
    · cases List.mem_singleton.1 hcode
      have hcharacter := b58Decode_zeros (len := 1) le_rfl
      rw [← contents_issuedWithZeros hbs] at hcharacter
      exact .of_raised _ 1 (by decide) (exists_raised_of_b58Decode_error hcharacter)
  | b2r rd bs1 =>
    cases List.mem_singleton.1 hcode
    have hbs : bs1.toNat < Config.nBuf := by simp_all [Instr.wellFormed, bufOk]
    have hlong : 32 < ((issuedWithZeros bs1.toNat 128).buf bs1.toNat).len := by
      rw [buf_issuedWithZeros hbs]
      decide
    exact .of_conclude _ 128 le_rfl (exec_b2r_of_long hlong)
  | bapp bd imm =>
    cases List.mem_singleton.1 hcode
    have hfull : ((issuedWithZeros bd.toNat 128).buf bd.toNat).len = 128 := by
      rw [buf_issuedWithZeros (lt_nBuf_of_writesBuf hwf rfl)]
    exact .of_conclude _ 128 le_rfl (exec_bapp_of_full hfull)

/-- Settles O13: by what the pseudocode can raise, and a state for each error. -/
theorem errorsOfEachCommand : Obligations.ErrorsOfEachCommand := by
  refine ⟨fun i s => ?_, fun i hwf code hcode => errorOccurs hwf hcode⟩
  obtain ⟨r, hexec, hraises⟩ := exists_exec_conclude_raisesOnly i s
  rw [hexec]
  cases r with
  | ok u => exact ⟨_, s.conclude_ok u, rfl, by simp, .inl rfl⟩
  | error e => exact ⟨_, s.conclude_error e, rfl, iff_of_true rfl e.number_ne_zero, .inr (hraises e rfl)⟩

end Sys2Proof.Machine
end

section
/-! PROOFS. The two functions of the Oracle on plain values (47_pipeline.md R275, R276). -/

namespace Sys2Proof.Machine

theorem bitlen_eq_iff {k n : Nat} (hn : 1 ≤ n) : bitlen k = n ↔ 2 ^ (n - 1) ≤ k ∧ k < 2 ^ n := by
  rw [← bitlen_le_iff, ← Nat.not_lt, ← bitlen_le_iff]
  omega

theorem inBitRange_of_pos {n : Nat} (hn : 1 ≤ n) (k : Nat) :
    inBitRange k n = some (decide (2 ^ (n - 1) ≤ k ∧ k < 2 ^ n)) :=
  if_neg (Nat.one_le_iff_ne_zero.1 hn)

/-- Two byte strings share a leading part of every length up to `sharedPrefix`, and of no other. -/
theorem le_sharedPrefix_iff (a t : Bytes) (m : Nat) :
    m ≤ sharedPrefix a t ↔ m ≤ a.length ∧ m ≤ t.length ∧ a.take m = t.take m := by
  induction a generalizing t m with
  | nil => cases t <;> simp +contextual [sharedPrefix]
  | cons x a ih =>
    cases t with
    | nil => simp +contextual [sharedPrefix]
    | cons y t =>
      cases m with
      | zero => simp
      | succ m =>
        by_cases hxy : x = y
        · simp [sharedPrefix, hxy, ih]
        · simp [sharedPrefix, hxy]

/-- Settles O60: `inBitRange` by the numbers of a bit length, `sharedPrefix` as the greatest of the shared lengths. -/
theorem bitRangeAndSharedPrefix : Obligations.BitRangeAndSharedPrefix := by
  refine ⟨fun k n hn => ?_, fun a t m => ?_⟩
  · exact ⟨_, inBitRange_of_pos hn k, decide_eq_true_iff, decide_eq_true_iff.trans (bitlen_eq_iff hn).symm⟩
  · rw [← le_sharedPrefix_iff]
    constructor
    · rintro rfl
      exact ⟨le_rfl, fun m' h₁ h₂ h₃ => (le_sharedPrefix_iff a t m').2 ⟨h₁, h₂, h₃⟩⟩
    · rintro ⟨hle, hgreatest⟩
      obtain ⟨h₁, h₂, h₃⟩ := (le_sharedPrefix_iff a t _).1 le_rfl
      exact Nat.le_antisymm hle (hgreatest _ h₁ h₂ h₃)

end Sys2Proof.Machine
end

section
/-! PROOFS. How long the texts of addresses and of WIF are, and how they begin (47_pipeline.md R270, R271). -/

namespace Sys2Proof.Machine

/-! ### The first digit of a number -/

/-- A number with `m` digits after the first one: how many digits it has, and the first one. -/
theorem digitsBE_of_bounds {b m N : Nat} (hb : 1 < b) (hlow : b ^ m ≤ N) (hhigh : N < b ^ (m + 1)) :
    (digitsBE b N).length = m + 1 ∧ (digitsBE b N).head? = some (N / b ^ m) := by
  have hlen : (Nat.digits b N).length = m + 1 :=
    Nat.le_antisymm ((Nat.digits_length_le_iff hb N).2 hhigh) ((Nat.lt_digits_length_iff hb N).2 hlow)
  have hfirst : N / b ^ m % b = N / b ^ m := Nat.mod_eq_of_lt (Nat.div_lt_of_lt_mul (by rwa [← Nat.pow_succ]))
  have hm : m < (Nat.digits b N).length := by omega
  rw [digitsBE, List.length_reverse, List.head?_reverse, List.getLast?_eq_getElem?, hlen, Nat.add_sub_cancel,
    List.getElem?_eq_getElem hm, ← List.getD_eq_getElem _ 0 hm, Nat.getD_digits N m hb, hfirst]
  exact ⟨rfl, rfl⟩

theorem fromBE_cons (b : Byte) (s : Bytes) : fromBE (b :: s) = b.toNat * 256 ^ s.length + fromBE s := by
  rw [fromBE_eq_ofDigits, fromBE_eq_ofDigits, List.map_cons, List.reverse_cons, Nat.ofDigits_append,
    Nat.ofDigits_singleton, List.length_reverse, List.length_map]
  ring

/-- The value of a byte string lies between those of its first byte followed by zeros and by 0xFF bytes. -/
theorem fromBE_cons_bounds (b : Byte) (s : Bytes) :
    b.toNat * 256 ^ s.length ≤ fromBE (b :: s) ∧ fromBE (b :: s) < (b.toNat + 1) * 256 ^ s.length := by
  have hlt := fromBE_lt s
  rw [fromBE_cons, Nat.succ_mul]
  omega

/-! ### Texts of byte strings that begin with a given byte -/

theorem textOfBytes_of_head?_ne {full : Bytes} (h : full.head? ≠ some 0) : textOfBytes full = text58 (fromBE full) :=
  textOfBytes_zeros_append h 0

theorem b58Encode_zero_eq (payload : Bytes) :
    b58Encode 0x00 payload = textOfBytes (zeros 1 ++ (payload ++ checksum (0x00 :: payload))) := by
  rw [b58Encode_eq, withChecksum]
  rfl

theorem head?_textOfBytes_zero_cons (full : Bytes) : (textOfBytes (0 :: full)).head? = some 0x31 := by
  have hcount : leadingCount 0 (0 :: full) = leadingCount 0 full + 1 := by simp [leadingCount]
  rw [textOfBytes, hcount, List.replicate_succ]
  rfl

/-! ### Addresses -/

section Address

variable {digest : Bytes}

theorem length_append_checksum (h : digest.length = 20) (v : Bytes) : (digest ++ checksum v).length = 24 := by
  rw [List.length_append, h, length_checksum]

/-- A version byte 0 and 24 bytes after it: one character for the zero byte, at most 33 for the others. -/
theorem length_address_le (h : digest.length = 20) : (b58Encode 0x00 digest).length ≤ 34 := by
  have hpow : 256 ^ (digest ++ checksum (0x00 :: digest)).length ≤ 58 ^ 33 := by
    rw [length_append_checksum h]
    decide
  rw [b58Encode_zero_eq]
  exact length_textOfBytes_le 1 hpow

theorem head?_address (digest : Bytes) : (b58Encode 0x00 digest).head? = some 0x31 := by
  rw [b58Encode_zero_eq]
  exact head?_textOfBytes_zero_cons _

/-- 24 bytes of which the first is not zero need 32 characters at least. -/
theorem le_length_address (h : digest.length = 20) (hhead : digest.head? ≠ some 0) :
    33 ≤ (b58Encode 0x00 digest).length := by
  cases digest with
  | nil => cases h
  | cons b digest =>
    have hb : 1 ≤ b.toNat := by
      refine Nat.one_le_iff_ne_zero.2 fun hzero => hhead ?_
      have hb : b = 0 := BitVec.eq_of_toNat_eq hzero
      rw [hb]
      rfl
    have hrest : (b :: digest ++ checksum (0x00 :: b :: digest)).head? ≠ some 0 := hhead
    have hvalue : 58 ^ 31 ≤ fromBE (b :: digest ++ checksum (0x00 :: b :: digest)) :=
      calc 58 ^ 31 ≤ 1 * 256 ^ 23 := by decide
        _ ≤ b.toNat * 256 ^ 23 := Nat.mul_le_mul_right _ hb
        _ = b.toNat * 256 ^ (digest ++ checksum (0x00 :: b :: digest)).length := by
          have hlen := length_append_checksum h (0x00 :: b :: digest)
          rw [List.cons_append, List.length_cons] at hlen
          rw [Nat.succ_injective hlen]
        _ ≤ _ := (fromBE_cons_bounds b _).1
    have hdigits : 31 < (digitsBE 58 (fromBE (b :: digest ++ checksum (0x00 :: b :: digest)))).length := by
      rw [digitsBE, List.length_reverse]
      exact (Nat.lt_digits_length_iff (by decide) _).2 hvalue
    have htext : b58Encode 0x00 (b :: digest) =
        [zeroChar] ++ text58 (fromBE (b :: digest ++ checksum (0x00 :: b :: digest))) := by
      rw [b58Encode_zero_eq, textOfBytes_zeros_append hrest]
      rfl
    rw [htext, text58_eq_map, List.length_append, List.length_map, List.length_singleton]
    omega

end Address

/-! ### WIF texts -/

/-- A text whose number has `m` digits after the first one. -/
theorem text58_of_bounds {m N : Nat} (hlow : 58 ^ m ≤ N) (hhigh : N < 58 ^ (m + 1)) :
    (text58 N).length = m + 1 ∧ (text58 N).head? = some (chr58 (N / 58 ^ m)) := by
  obtain ⟨hlen, hhead⟩ := digitsBE_of_bounds (by decide) hlow hhigh
  rw [text58_eq_map, List.length_map, List.head?_map, hhead]
  exact ⟨hlen, rfl⟩

/-- The text of version 0x80: its number begins with the byte 0x80. -/
theorem wif_eq_text58 {payload : Bytes} {n : Nat} (h : payload.length + 4 = n) :
    ∃ N, b58Encode 0x80 payload = text58 N ∧ 0x80 * 256 ^ n ≤ N ∧ N < 0x81 * 256 ^ n := by
  have hlen : (payload ++ checksum (0x80 :: payload)).length = n := by rw [List.length_append, length_checksum, h]
  have hbounds := fromBE_cons_bounds 0x80 (payload ++ checksum (0x80 :: payload))
  rw [hlen] at hbounds
  have hhead : (withChecksum 0x80 payload).head? ≠ some 0 := by simp [withChecksum]
  refine ⟨fromBE (withChecksum 0x80 payload), ?_, hbounds⟩
  rw [b58Encode_eq, textOfBytes_of_head?_ne hhead]

/-- A compressed WIF text: 52 characters, the first `'K'` or `'L'` (R271). -/
theorem wif_compressed {payload : Bytes} (h : payload.length = 33) :
    (b58Encode 0x80 payload).length = 52 ∧
      ((b58Encode 0x80 payload).head? = some 0x4B ∨ (b58Encode 0x80 payload).head? = some 0x4C) := by
  obtain ⟨N, htext, hlow, hhigh⟩ := wif_eq_text58 (n := 37) (by rw [h])
  have hN : 18 * 58 ^ 51 ≤ N := hlow.trans' (by decide)
  have hN' : N < 20 * 58 ^ 51 := hhigh.trans_le (by decide)
  obtain ⟨hlen, hhead⟩ := text58_of_bounds (m := 51) (hN.trans' (by decide)) (hN'.trans_le (by decide))
  rw [htext, hhead]
  refine ⟨hlen, ?_⟩
  obtain hfirst | hfirst : N / 58 ^ 51 = 18 ∨ N / 58 ^ 51 = 19 := by omega
  · exact .inl (by rw [hfirst]; rfl)
  · exact .inr (by rw [hfirst]; rfl)

/-- An uncompressed WIF text: 51 characters, the first `'5'` (R271). -/
theorem wif_uncompressed {payload : Bytes} (h : payload.length = 32) :
    (b58Encode 0x80 payload).length = 51 ∧ (b58Encode 0x80 payload).head? = some 0x35 := by
  obtain ⟨N, htext, hlow, hhigh⟩ := wif_eq_text58 (n := 36) (by rw [h])
  have hN : 4 * 58 ^ 50 ≤ N := hlow.trans' (by decide)
  have hN' : N < 5 * 58 ^ 50 := hhigh.trans_le (by decide)
  obtain ⟨hlen, hhead⟩ := text58_of_bounds (m := 50) (hN.trans' (by decide)) (hN'.trans_le (by decide))
  have hfirst : N / 58 ^ 50 = 4 := by omega
  rw [htext, hhead, hfirst]
  exact ⟨hlen, rfl⟩

end Sys2Proof.Machine
end

section
/-! PROOFS. Programs run by a host (47_pipeline.md R272, R273): a command that completes hands its state to the rest of
the program, one that raises an error stops it; and what a program leaves unchanged. -/

namespace Sys2Proof.Machine

/-! ### One command of a program -/

section Run

variable {i : Instr} {s t : State}

/-- `run` of a well-formed command from an idle engine: its issue, then the command. -/
theorem runWord_encode (hwf : i.wellFormed = true) (hidle : s.busy = false)
    (h : exec i (s.issue (encode i)) = .next t) :
    runWord (encode i) s = .next (t, if t.err then t.errcode.toNat else 0) := by
  have hissue : s.eventWrite 0x004 (encode i) = .next (s.issue (encode i)) :=
    mapsTo_cmd.eventWrite_of_idle hidle (encode i)
  have hdecode : decode (s.issue (encode i)).cmdlatch = .ok i := decodeInvertsEncode i hwf
  have hturn : (s.issue (encode i)).engineTurn = .next t := by
    rw [State.engineTurn_of_busy (s.issue_busy _), State.complete_of_decode_ok hdecode, h]
  simp only [runWord, State.engineTurn_of_idle hidle, hissue, hturn, andThen]

theorem runProgram_cons_of_raised {e : CmdError} (hwf : i.wellFormed = true) (hidle : s.busy = false)
    (h : exec i (s.issue (encode i)) = .next t) (ht : Raised (s.issue (encode i)) t e.number) (ws : List Word32) :
    runProgram (encode i :: ws) s = .next (t, e.number.toNat) := by
  obtain ⟨-, herr, hcode, -⟩ := ht
  have hne : e.number.toNat ≠ 0 := Nat.one_le_iff_ne_zero.1 e.number_range.1
  simp [runProgram, runWord_encode hwf hidle h, andThen, herr, hcode, hne]

/-- A program whose first command raises an error ends with its number, and no data has changed. -/
theorem exists_runProgram_of_raised {e : CmdError} (hwf : i.wellFormed = true) (hidle : s.busy = false)
    (h : ∃ t, exec i (s.issue (encode i)) = .next t ∧ Raised (s.issue (encode i)) t e.number) (ws : List Word32) :
    ∃ t, runProgram (encode i :: ws) s = .next (t, e.number.toNat) ∧ t.busy = false ∧ t.err = true ∧
      t.errcode = e.number ∧ SameRegs s t ∧ SamePoints s t ∧ SameBufs s t := by
  obtain ⟨t, hexec, hraised⟩ := h
  have ⟨hbusy, herr, hcode, hregs, hpoints, hbufs, _⟩ := hraised
  exact ⟨t, runProgram_cons_of_raised hwf hidle hexec hraised ws, hbusy, herr, hcode, hregs, hpoints, hbufs⟩

end Run

/-! ### What a program leaves unchanged -/

/-- No register changed, no point register outside `ps`, no buffer outside `bs`, and none of HAZ, ONC and VER. -/
structure ChangesOnly (s t : State) (ps bs : List Nat) : Prop where
  regs : SameRegs s t
  points : ∀ i, i ∉ ps → t.point i = s.point i
  bufs : ∀ b, b ∉ bs → SameBuf s t b
  flags : t.haz = s.haz ∧ t.onc = s.onc ∧ t.ver = s.ver

section Frame

variable {s t u : State} {ps qs bs cs : List Nat}

theorem SameBuf.trans {k : Nat} (h : SameBuf s t k) (h' : SameBuf t u k) : SameBuf s u k := by
  obtain ⟨hlen, hbytes⟩ := h
  obtain ⟨hlen', hbytes'⟩ := h'
  exact ⟨hlen'.trans hlen, fun a => (hbytes' a).trans (hbytes a)⟩

theorem ChangesOnly.mono (h : ChangesOnly s t ps bs) (hps : ps ⊆ qs) (hbs : bs ⊆ cs) : ChangesOnly s t qs cs where
  regs := h.regs
  points i hi := h.points i fun hmem => hi (hps hmem)
  bufs b hb := h.bufs b fun hmem => hb (hbs hmem)
  flags := h.flags

theorem ChangesOnly.trans (h : ChangesOnly s t ps bs) (h' : ChangesOnly t u qs cs) :
    ChangesOnly s u (ps ++ qs) (bs ++ cs) where
  regs i := (h'.regs i).trans (h.regs i)
  points i hi := by
    obtain ⟨hp, hq⟩ := not_or.1 (mt List.mem_append.2 hi)
    exact (h'.points i hq).trans (h.points i hp)
  bufs b hb := by
    obtain ⟨hl, hr⟩ := not_or.1 (mt List.mem_append.2 hb)
    exact (h.bufs b hl).trans (h'.bufs b hr)
  flags := by
    obtain ⟨hhaz, honc, hver⟩ := h.flags
    obtain ⟨hhaz', honc', hver'⟩ := h'.flags
    exact ⟨hhaz'.trans hhaz, honc'.trans honc, hver'.trans hver⟩

/-- The issue of a command changes only the life of the command, so it is outside a command's frame. -/
theorem ChangesOnly.of_onlyPoint {w : Word32} {i : Nat} (h : OnlyPoint (s.issue w) t i) : ChangesOnly s t [i] [] := by
  obtain ⟨-, hregs, hpoints, hbufs, ⟨hhaz, -⟩, honc, hver⟩ := h
  exact ⟨hregs, fun j hj => hpoints j (by simpa using hj), fun b _ => hbufs b, hhaz, honc, hver⟩

theorem ChangesOnly.of_onlyBuf {w : Word32} {k : Nat} (h : OnlyBuf (s.issue w) t k) : ChangesOnly s t [] [k] := by
  obtain ⟨-, hregs, hpoints, hbufs, ⟨hhaz, -⟩, honc, hver⟩ := h
  exact ⟨hregs, fun j _ => hpoints j, fun b hb => hbufs b (by simpa using hb), hhaz, honc, hver⟩

theorem ChangesOnly.of_onlyCompleted {w : Word32} (h : OnlyCompleted (s.issue w) t) : ChangesOnly s t [] [] := by
  obtain ⟨-, hregs, hpoints, hbufs, ⟨hhaz, -⟩, honc, hver⟩ := h
  exact ⟨hregs, fun j _ => hpoints j, fun b _ => hbufs b, hhaz, honc, hver⟩

theorem ChangesOnly.bufHolds {k : Nat} {str : Bytes} (h : ChangesOnly s t ps bs) (hk : k ∉ bs)
    (hs : BufHolds s k str) : BufHolds t k str := by
  obtain ⟨hlen, hbytes⟩ := h.bufs k hk
  obtain ⟨hlen', hbytes'⟩ := hs
  exact ⟨hlen.trans hlen', fun a => (hbytes a).trans (hbytes' a)⟩

end Frame

/-! ### A program that runs to its end -/

/-- The program of these commands ends in `t` without error. -/
structure ProgramRun (is : List Instr) (s t : State) (ps bs : List Nat) : Prop where
  run : runProgram (is.map encode) s = .next (t, 0)
  completed : Completed t
  frame : ChangesOnly s t ps bs

/-- A program that ends without error hands its last state to the program after it. -/
theorem runProgram_append {ws : List Word32} {s t : State} (h : runProgram ws s = .next (t, 0)) (vs : List Word32) :
    runProgram (ws ++ vs) s = runProgram vs t := by
  induction ws generalizing s with
  | nil =>
    cases h
    rfl
  | cons w ws ih =>
    obtain ⟨⟨u, code⟩, hword, hrest⟩ := (andThen_eq_next_iff _ _ _).1 h
    by_cases hcode : code ≠ 0
    · rw [if_pos hcode] at hrest
      cases hrest
      exact absurd rfl hcode
    · rw [if_neg hcode] at hrest
      rw [List.cons_append, runProgram, hword, andThen, if_neg hcode, ih hrest]

section Programs

variable {i : Instr} {is js : List Instr} {s t u : State} {ps qs bs cs : List Nat}

theorem ProgramRun.idle (h : ProgramRun is s t ps bs) : t.busy = false := by
  obtain ⟨hbusy, -⟩ := h.completed
  exact hbusy

theorem ProgramRun.append (h : ProgramRun is s t ps bs) (h' : ProgramRun js t u qs cs) :
    ProgramRun (is ++ js) s u (ps ++ qs) (bs ++ cs) where
  run := by rw [List.map_append, runProgram_append h.run, h'.run]
  completed := h'.completed
  frame := h.frame.trans h'.frame

/-- One command that completes. -/
theorem ProgramRun.single (hwf : i.wellFormed = true) (hidle : s.busy = false)
    (hexec : exec i (s.issue (encode i)) = .next t) (ht : Completed t) (hframe : ChangesOnly s t ps bs) :
    ProgramRun [i] s t ps bs where
  run := by
    obtain ⟨-, herr, -⟩ := ht
    simp [runProgram, runWord_encode hwf hidle hexec, andThen, herr]
  completed := ht
  frame := hframe

theorem ProgramRun.of_onlyPoint {k : Nat} (hwf : i.wellFormed = true) (hidle : s.busy = false)
    (hexec : exec i (s.issue (encode i)) = .next t) (h : OnlyPoint (s.issue (encode i)) t k) :
    ProgramRun [i] s t [k] [] :=
  have ⟨hcompleted, _⟩ := h
  .single hwf hidle hexec hcompleted (.of_onlyPoint h)

theorem ProgramRun.of_onlyBuf {k : Nat} (hwf : i.wellFormed = true) (hidle : s.busy = false)
    (hexec : exec i (s.issue (encode i)) = .next t) (h : OnlyBuf (s.issue (encode i)) t k) :
    ProgramRun [i] s t [] [k] :=
  have ⟨hcompleted, _⟩ := h
  .single hwf hidle hexec hcompleted (.of_onlyBuf h)

theorem ProgramRun.of_onlyCompleted (hwf : i.wellFormed = true) (hidle : s.busy = false)
    (hexec : exec i (s.issue (encode i)) = .next t) (h : OnlyCompleted (s.issue (encode i)) t) :
    ProgramRun [i] s t [] [] :=
  have ⟨hcompleted, _⟩ := h
  .single hwf hidle hexec hcompleted (.of_onlyCompleted h)

end Programs

/-! ### The command that ends both pipelines -/

/-- The string that a buffer holds is its contents (10_state.md R29). -/
theorem State.contents_of_bufHolds {s : State} {k : Index} {str : Bytes} (h : BufHolds s k.toNat str) :
    s.contents k = str := by
  obtain ⟨hlen, hbytes⟩ := h
  rw [State.contents_eq_map_readByte, hlen]
  refine List.ext_getElem (by simp) fun a ha hlt => ?_
  rw [List.getElem_map, List.getElem_range, hbytes, List.getD_eq_getElem _ _ hlt]

/-- B58ENC at the end of a program, on contents whose text always fits. -/
theorem exists_programRun_b58enc {bd bs : Index} {s : State} {payload : Bytes} (ver : Byte) (hbd : bufOk bd = true)
    (hbs : bufOk bs = true) (hidle : s.busy = false) (hs : BufHolds s bs.toNat payload)
    (hlen : payload.length ≤ 88) :
    ∃ t, ProgramRun [.b58enc bd bs ver] s t [] [bd.toNat] ∧ BufHolds t bd.toNat (b58Encode ver payload) := by
  have hwf : (Instr.b58enc bd bs ver).wellFormed = true := by simp [Instr.wellFormed, hbd, hbs]
  obtain ⟨hresult, hfits, -⟩ := b58encResult
  obtain ⟨-, -, hwrites⟩ := hresult bd bs ver (s.issue (encode (.b58enc bd bs ver))) hwf
  have hcontents : (s.issue (encode (.b58enc bd bs ver))).contents bs = payload := State.contents_of_bufHolds hs
  rw [hcontents] at hwrites
  obtain ⟨t, hexec, honly, hholds⟩ := hwrites (hfits ver payload hlen)
  exact ⟨t, .of_onlyBuf hwf hidle hexec honly, hholds⟩

end Sys2Proof.Machine
end

section
/-! PROOFS. The address pipeline (47_pipeline.md R270): PMULG makes the point, and the three commands after it make
the address from the point register. -/

namespace Sys2Proof.Machine

/-! ### The serialised key -/

/-- The public key of an affine point, compressed or not (43_pubkey.md R180). -/
def publicKey (compressed : Bool) (x y : Nat) : Bytes :=
  if compressed then (if y % 2 = 0 then 0x02 else 0x03) :: be x 32 else 0x04 :: (be x 32 ++ be y 32)

/-- The command of the pipeline that serialises the key. -/
def serialiseInstr (compressed : Bool) (bt pt : Index) : Instr := if compressed then .serc bt pt else .seru bt pt

section Address

variable {compressed : Bool} {bd rs pt bt : Index} {s : State} {x y : Nat}

theorem wellFormed_serialiseInstr (hbt : bufOk bt = true) (hpt : ptOk pt = true) :
    (serialiseInstr compressed bt pt).wellFormed = true := by
  cases compressed <;> simp [serialiseInstr, Instr.wellFormed, hbt, hpt]

/-- From a point register that holds an affine point the buffer gets the point's key. -/
theorem exists_exec_serialiseInstr (hbt : bufOk bt = true) (hpt : ptOk pt = true)
    (hp : HoldsPoint (s.point pt.toNat) (.affine x y)) (hxy : (Point.affine x y).Canonical) :
    ∃ t, exec (serialiseInstr compressed bt pt) s = .next t ∧ OnlyBuf s t bt.toNat ∧
      BufHolds t bt.toNat (publicKey compressed x y) := by
  obtain ⟨hinf, rfl, rfl⟩ := hp
  obtain ⟨hx, hy⟩ := hxy
  have hwf := wellFormed_serialiseInstr (compressed := compressed) hbt hpt
  cases compressed with
  | true =>
    obtain ⟨-, -, hwrites⟩ := sercResult bt pt s hwf
    rw [Nat.mod_eq_of_lt hx, Nat.mod_eq_of_lt hy] at hwrites
    exact hwrites hinf
  | false =>
    obtain ⟨-, -, hwrites⟩ := seruResult bt pt s hwf
    rw [Nat.mod_eq_of_lt hx, Nat.mod_eq_of_lt hy] at hwrites
    exact hwrites hinf

/-! ### From the point register to the address -/

/-- The pipeline after PMULG. -/
def addressTail (compressed : Bool) (bd pt bt : Index) : List Instr :=
  [serialiseInstr compressed bt pt, .hash160 bt bt, .b58enc bd bt Config.verAddr]

/-- The address of the key of an affine point (R270). -/
def addressOf (compressed : Bool) (x y : Nat) : Bytes :=
  b58Encode 0x00 (ripemd160 (sha256 (publicKey compressed x y)))

theorem exists_programRun_addressTail (hbd : bufOk bd = true) (hpt : ptOk pt = true) (hbt : bufOk bt = true)
    (hidle : s.busy = false) (hp : HoldsPoint (s.point pt.toNat) (.affine x y))
    (hxy : (Point.affine x y).Canonical) :
    ∃ t, ProgramRun (addressTail compressed bd pt bt) s t [] [bt.toNat, bt.toNat, bd.toNat] ∧
      (bt ≠ bd → BufHolds t bt.toNat (ripemd160 (sha256 (publicKey compressed x y)))) ∧
      BufHolds t bd.toNat (addressOf compressed x y) := by
  have hwf₁ := wellFormed_serialiseInstr (compressed := compressed) hbt hpt
  have hwf₂ : (Instr.hash160 bt bt).wellFormed = true := by simp [Instr.wellFormed, hbt]
  obtain ⟨t₁, hexec₁, honly₁, hkey⟩ :=
    exists_exec_serialiseInstr (compressed := compressed) (s := s.issue (encode (serialiseInstr compressed bt pt)))
      hbt hpt hp hxy
  have hrun₁ := ProgramRun.of_onlyBuf hwf₁ hidle hexec₁ honly₁
  have hcontents : (t₁.issue (encode (.hash160 bt bt))).contents bt = publicKey compressed x y :=
    State.contents_of_bufHolds hkey
  obtain ⟨-, t₂, hexec₂, honly₂, hdigest, -⟩ := hash160Result bt bt (t₁.issue (encode (.hash160 bt bt))) hwf₂
  rw [hcontents] at hdigest
  have hrun₂ := ProgramRun.of_onlyBuf hwf₂ hrun₁.idle hexec₂ honly₂
  obtain ⟨t, hrun₃, htext⟩ :=
    exists_programRun_b58enc Config.verAddr hbd hbt hrun₂.idle hdigest ((length_ripemd160 _).trans_le (by decide))
  refine ⟨t, hrun₁.append (hrun₂.append hrun₃), fun hne => hrun₃.frame.bufHolds ?_ hdigest, htext⟩
  simpa [BitVec.toNat_inj] using hne

/-! ### The whole pipeline -/

/-- The multiple of G by a valid scalar is an affine point (O29). -/
theorem exists_multiple_eq_affine {k : Nat} (hpos : 1 ≤ k) (hlt : k < Config.n) :
    ∃ x y, doubleAndAdd k (bitlen k) basePoint = .affine x y ∧ (Point.affine x y).Canonical := by
  obtain ⟨-, hne, -⟩ := validMultiplesAreDistinctPoints k hpos hlt
  have hcanonical := canonical_multiply k canonical_basePoint
  rw [doubleAndAdd_eq_multiply _ (hlt.trans n_lt_two_pow) le_rfl]
  cases hP : multiply k basePoint with
  | infinity => exact absurd hP hne
  | affine x y => exact ⟨x, y, rfl, hP ▸ hcanonical⟩

/-- A valid scalar: the pipeline leaves the point and the address. -/
theorem exists_programRun_deriveAddr (hbd : bufOk bd = true) (hrs : regOk rs = true) (hpt : ptOk pt = true)
    (hbt : bufOk bt = true) (hidle : s.busy = false)
    (hvalid : 1 ≤ (s.reg rs.toNat).toNat ∧ (s.reg rs.toNat).toNat < Config.n)
    (hmultiple : doubleAndAdd (s.reg rs.toNat).toNat (bitlen (s.reg rs.toNat).toNat) basePoint = .affine x y)
    (hxy : (Point.affine x y).Canonical) :
    ∃ t, ProgramRun (.pmulg pt rs :: addressTail compressed bd pt bt) s t [pt.toNat] [bt.toNat, bt.toNat, bd.toNat] ∧
      HoldsPoint (t.point pt.toNat) (.affine x y) ∧
      (bt ≠ bd → BufHolds t bt.toNat (ripemd160 (sha256 (publicKey compressed x y)))) ∧
      BufHolds t bd.toNat (addressOf compressed x y) := by
  have hwf : (Instr.pmulg pt rs).wellFormed = true := by simp [Instr.wellFormed, hpt, hrs]
  obtain ⟨-, -, hwrites⟩ := pmulgResult pt rs (s.issue (encode (.pmulg pt rs))) _ hwf rfl
  obtain ⟨t₁, hexec, honly, hp, -⟩ := hwrites hvalid
  rw [State.reg_issue, hmultiple] at hp
  have hrun₁ := ProgramRun.of_onlyPoint hwf hidle hexec honly
  obtain ⟨t, hrun, hdigest, htext⟩ :=
    exists_programRun_addressTail (compressed := compressed) hbd hpt hbt hrun₁.idle hp hxy
  have hpoint : t.point pt.toNat = t₁.point pt.toNat := hrun.frame.points _ List.not_mem_nil
  exact ⟨t, hrun₁.append hrun, hpoint ▸ hp, hdigest, htext⟩

end Address

/-- Settles O57: PMULG checks the scalar and makes the point; the rest of the pipeline makes the address from it. -/
theorem deriveAddressProgram : Obligations.DeriveAddressProgram := by
  rintro compressed bd rs pt bt s _ hbd hrs hpt hbt rfl hidle
  have hwf : (Instr.pmulg pt rs).wellFormed = true := by simp [Instr.wellFormed, hpt, hrs]
  refine ⟨fun hinvalid => ?_, fun hvalid => ?_⟩
  · obtain ⟨-, hraises, -⟩ := pmulgResult pt rs (s.issue (encode (.pmulg pt rs))) _ hwf rfl
    exact exists_runProgram_of_raised (e := .invalidScalar) hwf hidle (hraises hinvalid) _
  · obtain ⟨hpos, hlt⟩ := hvalid
    obtain ⟨x, y, hmultiple, hxy⟩ := exists_multiple_eq_affine hpos hlt
    obtain ⟨t, hrun, hp, hdigest, htext⟩ := exists_programRun_deriveAddr (compressed := compressed) hbd hrs hpt hbt
      hidle ⟨hpos, hlt⟩ hmultiple hxy
    obtain ⟨hregs, hpoints, hbufs, hflags⟩ := hrun.frame
    have hlen := length_ripemd160 (sha256 (publicKey compressed x y))
    refine ⟨t, x, y, publicKey compressed x y, _, _, hrun.run, hrun.completed, hmultiple, rfl, rfl, rfl, hp, hdigest,
      htext, length_address_le hlen, head?_address _, le_length_address hlen, hregs, fun i hi => ?_,
      fun b hne hne' => ?_, hflags⟩
    · exact hpoints i (by simpa using hi)
    · exact hbufs b (by simp [hne, hne'])

end Sys2Proof.Machine
end

section
/-! PROOFS. The WIF pipeline (47_pipeline.md R271): SCHK checks the scalar, R2B and BAPP make the payload, B58ENC the
text. -/

namespace Sys2Proof.Machine

/-! ### Making the payload -/

theorem getD_append_singleton (str : Bytes) (v : Byte) (a : Nat) :
    (str ++ [v]).getD a 0 = if a = str.length then v else str.getD a 0 := by
  obtain hlt | rfl | hgt := Nat.lt_trichotomy a str.length
  · rw [if_neg hlt.ne, List.getD_append _ _ _ _ hlt]
  · simp
  · rw [if_neg hgt.ne', List.getD_eq_default _ _ (by simpa using hgt), List.getD_eq_default _ _ hgt.le]

/-- BAPP on a buffer that holds a byte string leaves the string with the byte appended. -/
theorem exists_exec_bapp_of_bufHolds {bd : Index} {imm : Byte} {s : State} {str : Bytes}
    (hwf : (Instr.bapp bd imm).wellFormed = true) (hok : (s.buf bd.toNat).Ok) (hs : BufHolds s bd.toNat str)
    (hlen : str.length < 128) :
    ∃ t, exec (.bapp bd imm) s = .next t ∧ OnlyBuf s t bd.toNat ∧ BufHolds t bd.toNat (str ++ [imm]) := by
  obtain ⟨hstr, hbytes⟩ := hs
  obtain ⟨-, -, happends⟩ := bappResult bd imm s _ hwf hok hstr.symm
  obtain ⟨t, hexec, honly, hlen', hbytes'⟩ := happends hlen
  refine ⟨t, hexec, honly, by simp [hlen'], fun a => ?_⟩
  rw [hbytes', getD_append_singleton, hbytes]

/-- The payload of a WIF text (R271). -/
def wifPayload (compressed : Bool) (k : Nat) : Bytes := if compressed then be k 32 ++ [0x01] else be k 32

theorem length_wifPayload_le (compressed : Bool) (k : Nat) : (wifPayload compressed k).length ≤ 88 := by
  cases compressed <;> simp [wifPayload, length_be]

/-- The commands that make the payload from the register. -/
def wifPayloadInstrs (compressed : Bool) (rs bt : Index) : List Instr :=
  if compressed then [.r2b bt rs, .bapp bt Config.wifMarker] else [.r2b bt rs]

theorem expand_deriveWif (compressed : Bool) (bd rs bt : Index) :
    (Pseudo.deriveWif compressed bd rs bt).expand =
      .schk rs :: (wifPayloadInstrs compressed rs bt ++ [.b58enc bd bt Config.verWif]) := by
  cases compressed <;> rfl

section Payload

variable {rs bt : Index} {s : State}

/-- R2B: the buffer holds the 32 bytes, and its space is in canonical form whatever it was before. -/
theorem exists_programRun_r2b (hrs : regOk rs = true) (hbt : bufOk bt = true) (hidle : s.busy = false) :
    ∃ t, ProgramRun [.r2b bt rs] s t [] [bt.toNat] ∧ (t.buf bt.toNat).Ok ∧
      BufHolds t bt.toNat (be (s.reg rs.toNat).toNat 32) := by
  have hwf : (Instr.r2b bt rs).wellFormed = true := by simp [Instr.wellFormed, hrs, hbt]
  have hk : bt.toNat < Config.nBuf := lt_nBuf_of_writesBuf hwf rfl
  refine ⟨_, .of_onlyBuf hwf hidle rfl (State.onlyBuf_finish_writeString _ _ _), ?_,
    State.bufHolds_writeString _ hk _⟩
  rw [State.buf_finish_writeString _ hk]
  exact Buffer.ok_ofBytes ((length_be _ _).trans_le (by decide))

/-- The payload stands in the buffer when B58ENC begins. -/
theorem exists_programRun_wifPayload (compressed : Bool) (hrs : regOk rs = true) (hbt : bufOk bt = true)
    (hidle : s.busy = false) :
    ∃ t, ProgramRun (wifPayloadInstrs compressed rs bt) s t [] [bt.toNat] ∧
      BufHolds t bt.toNat (wifPayload compressed (s.reg rs.toNat).toNat) := by
  obtain ⟨t₁, hrun₁, hok, hbytes⟩ := exists_programRun_r2b (s := s) hrs hbt hidle
  cases compressed with
  | false => exact ⟨t₁, hrun₁, hbytes⟩
  | true =>
    have hwf : (Instr.bapp bt Config.wifMarker).wellFormed = true := hbt
    obtain ⟨t, hexec, honly, hholds⟩ := exists_exec_bapp_of_bufHolds
      (s := t₁.issue (encode (.bapp bt Config.wifMarker))) hwf hok hbytes ((length_be _ _).trans_lt (by decide))
    have hrun := hrun₁.append (.of_onlyBuf hwf hrun₁.idle hexec honly)
    exact ⟨t, ⟨hrun.run, hrun.completed, hrun.frame.mono (by simp) (by simp)⟩, hholds⟩

end Payload

/-- The lengths and first characters of R271. -/
theorem wif_text (compressed : Bool) (k : Nat) :
    if compressed then (b58Encode 0x80 (wifPayload compressed k)).length = 52 ∧
      ((b58Encode 0x80 (wifPayload compressed k)).head? = some 0x4B ∨
        (b58Encode 0x80 (wifPayload compressed k)).head? = some 0x4C)
    else (b58Encode 0x80 (wifPayload compressed k)).length = 51 ∧
      (b58Encode 0x80 (wifPayload compressed k)).head? = some 0x35 := by
  cases compressed with
  | true => exact wif_compressed (by simp [wifPayload, length_be])
  | false => exact wif_uncompressed (by simp [wifPayload, length_be])

/-- Settles O58: SCHK checks the scalar and writes nothing; the payload is made from the register and encoded. -/
theorem deriveWifProgram : Obligations.DeriveWifProgram := by
  rintro compressed bd rs bt s _ hbd hrs hbt rfl hidle
  have hwf : (Instr.schk rs).wellFormed = true := hrs
  obtain ⟨-, hraises, hcompletes⟩ := schkResult rs (s.issue (encode (.schk rs))) _ hwf rfl
  rw [Pseudo.program, expand_deriveWif]
  refine ⟨fun hinvalid => ?_, fun hvalid => ?_⟩
  · exact exists_runProgram_of_raised (e := .invalidScalar) hwf hidle (hraises hinvalid) _
  · obtain ⟨t₁, hexec, honly⟩ := hcompletes hvalid
    have hrun₁ := ProgramRun.of_onlyCompleted hwf hidle hexec honly
    obtain ⟨t₂, hrun₂, hpayload⟩ := exists_programRun_wifPayload (s := t₁) compressed hrs hbt hrun₁.idle
    rw [hrun₁.frame.regs] at hpayload
    obtain ⟨t, hrun₃, htext⟩ :=
      exists_programRun_b58enc Config.verWif hbd hbt hrun₂.idle hpayload (length_wifPayload_le _ _)
    have hrun := hrun₁.append (hrun₂.append hrun₃)
    obtain ⟨hregs, hpoints, hbufs, -⟩ := hrun.frame
    exact ⟨t, _, hrun.run, hrun.completed, rfl, htext, wif_text _ _, hregs, fun i => hpoints i List.not_mem_nil,
      fun b hne hne' => hbufs b (by simp [hne, hne'])⟩

end Sys2Proof.Machine
end

section
/-! PROOFS. The Oracle's `matchesTarget` (47_pipeline.md R274, R278): the host loads the candidate into `r[0]` word by
word and runs the address pipeline, then its last three commands once more for the other form of the key. -/

namespace Sys2Proof.Machine

/-! ### Loading a register -/

theorem State.events_append_singleton (s : State) (es : List Event) (e : Event) :
    s.events (es ++ [e]) = andThen (s.events es) fun t => t.event e := by
  induction es generalizing s with
  | nil =>
    simp only [List.nil_append, State.events, andThen]
    cases s.event e <;> rfl
  | cons d es ih =>
    simp only [List.cons_append, State.events, ih]
    cases s.event d <;> rfl

/-- The first `m` words of the register, written least significant first (20_memory.md R72). -/
theorem exists_events_words {s : State} {i m : Nat} (v : Word256) (hi : i < 8) (hm : m ≤ 8) (hidle : s.busy = false) :
    ∃ t, s.events ((List.range m).map fun j => .write (offReg i j) (wordOf v j)) = .next t ∧ t.busy = false ∧
      ∀ k, k < m → (t.reg i).extractLsb' (32 * k) 32 = v.extractLsb' (32 * k) 32 := by
  induction m with
  | zero => exact ⟨s, rfl, hidle, fun k hk => absurd hk (Nat.not_lt_zero k)⟩
  | succ m ih =>
    obtain ⟨t, hevents, htidle, hwords⟩ := ih (by omega)
    obtain ⟨hwrites, -⟩ := registerWindow t i m (offReg i m) (wordOf v m) hi (by omega) rfl
    obtain ⟨-, u, hwrite, hwords', -, -, -, -, hbusy, -⟩ := hwrites htidle
    refine ⟨u, ?_, hbusy.trans htidle, fun k hk => ?_⟩
    · rw [List.range_succ, List.map_append, List.map_singleton, State.events_append_singleton, hevents]
      exact hwrite
    · rw [hwords' k (by omega)]
      split
      next hkm => rw [hkm, wordOf]
      next hkm => exact hwords k (by omega)

/-- A 256-bit quantity is its eight words (20_memory.md R63). -/
theorem eq_of_words_eq {x y : Word256} (h : ∀ k, k < 8 → x.extractLsb' (32 * k) 32 = y.extractLsb' (32 * k) 32) :
    x = y := by
  apply BitVec.eq_of_getLsbD_eq
  intro b hb
  have hword := congrArg (fun w => w.getLsbD (b % 32)) (h (b / 32) (by omega))
  have hlt : b % 32 < 32 := Nat.mod_lt _ (by decide)
  simpa only [BitVec.getLsbD_extractLsb', hlt, decide_true, Bool.true_and, Nat.div_add_mod] using hword

theorem exists_events_loadReg {s : State} {i : Nat} (v : Word256) (hi : i < 8) (hidle : s.busy = false) :
    ∃ t, s.events (loadReg i v) = .next t ∧ t.busy = false ∧ t.reg i = v := by
  obtain ⟨t, hevents, htidle, hwords⟩ := exists_events_words v hi le_rfl hidle
  exact ⟨t, hevents, htidle, eq_of_words_eq hwords⟩

/-- Whatever the state, the engine becomes idle and the register holds the candidate. -/
theorem exists_load_candidate {k : Nat} (s : State) (hk : k < 2 ^ 256) :
    ∃ s₀ s₁, s.engineTurn = .next s₀ ∧ s₀.events (loadReg 0 (BitVec.ofNat 256 k)) = .next s₁ ∧ s₁.busy = false ∧
      (s₁.reg 0).toNat = k := by
  obtain ⟨s₀, hturn⟩ := s.exists_engineTurn_eq_next
  obtain ⟨s₁, hload, hidle, hreg⟩ :=
    exists_events_loadReg (BitVec.ofNat 256 k) (i := 0) (by decide) (State.busy_engineTurn hturn)
  exact ⟨s₀, s₁, hturn, hload, hidle, by rw [hreg, BitVec.toNat_ofNat, Nat.mod_eq_of_lt hk]⟩

/-! ### The answer -/

section Answer

variable {k code : Nat} {target : Bytes} {s s₀ s₁ t u : State}

/-- The host itself rejects a candidate that does not fit a register (R278). -/
theorem matchesTarget_of_large (hk : 2 ^ 256 ≤ k) (target : Bytes) (s : State) :
    matchesTarget k target s = .next (s, .error 1) := if_pos hk

theorem matchesTarget_of_error (hk : k < 2 ^ 256) (hturn : s.engineTurn = .next s₀)
    (hload : s₀.events (loadReg 0 (BitVec.ofNat 256 k)) = .next s₁) (hcode : code ≠ 0)
    (hrun : runProgram (Pseudo.deriveAddr true 1 0 0 0).program s₁ = .next (t, code)) :
    matchesTarget k target s = .next (t, .error code) := by
  rw [matchesTarget, if_neg (Nat.not_le.2 hk), hturn, andThen, hload, andThen, hrun, andThen, if_pos hcode]

theorem matchesTarget_of_runs (hk : k < 2 ^ 256) (hturn : s.engineTurn = .next s₀)
    (hload : s₀.events (loadReg 0 (BitVec.ofNat 256 k)) = .next s₁)
    (hrun : runProgram (Pseudo.deriveAddr true 1 0 0 0).program s₁ = .next (t, 0))
    (hrun' : runProgram ((addressTail false 1 0 0).map encode) t = .next (u, 0)) :
    matchesTarget k target s = .next (u, .ok (t.contents 1 == target || u.contents 1 == target)) := by
  have hrun'' : runProgram ([.seru 0 0, .hash160 0 0, .b58enc 1 0 Config.verAddr].map encode) t = .next (u, 0) := hrun'
  rw [matchesTarget, if_neg (Nat.not_le.2 hk), hturn, andThen, hload, andThen, hrun, andThen, if_neg (not_not.2 rfl),
    hrun'', andThen]

end Answer

/-- Settles O59: an invalid candidate is refused as in O57; for a valid one the second program finds the point still in
`P[0]`, and each program leaves its address in `buf[1]`. -/
theorem matchesTargetAnswer : Obligations.MatchesTargetAnswer := by
  intro k target s
  by_cases hk : k < 2 ^ 256
  · obtain ⟨s₀, s₁, hturn, hload, hidle, hreg⟩ := exists_load_candidate s hk
    obtain ⟨hinvalid, -⟩ := deriveAddressProgram true 1 0 0 0 s₁ k rfl rfl rfl rfl hreg.symm hidle
    refine ⟨fun hrange => ?_, fun hvalid => ?_⟩
    · obtain ⟨t, hrun, -⟩ := hinvalid hrange
      exact ⟨t, matchesTarget_of_error hk hturn hload (by decide) hrun⟩
    · have ⟨hpos, hlt⟩ := hvalid
      obtain ⟨x, y, hmultiple, hxy⟩ := exists_multiple_eq_affine hpos hlt
      rw [← hreg] at hvalid
      obtain ⟨t, hrun, hp, -, htext⟩ := exists_programRun_deriveAddr (compressed := true) (bd := 1) (rs := 0) (pt := 0)
        (bt := 0) rfl rfl rfl rfl hidle hvalid (hreg.symm ▸ hmultiple) hxy
      obtain ⟨u, hrun', -, htext'⟩ := exists_programRun_addressTail (compressed := false) (bd := 1) (pt := 0) (bt := 0)
        rfl rfl rfl hrun.idle hp hxy
      refine ⟨u, x, y, _, matchesTarget_of_runs hk hturn hload hrun.run hrun'.run, hmultiple, ?_⟩
      rw [State.contents_of_bufHolds htext, State.contents_of_bufHolds htext', Bool.or_eq_true, beq_iff_eq, beq_iff_eq,
        eq_comm, eq_comm (b := target)]
      rfl
  · have hlarge : 2 ^ 256 ≤ k := Nat.not_lt.1 hk
    refine ⟨fun _ => ⟨s, matchesTarget_of_large hlarge target s⟩, fun ⟨_, hlt⟩ => ?_⟩
    exact absurd (hlt.trans n_lt_two_pow) hk

end Sys2Proof.Machine
end
